-- ==== Sys2Proof/Word.lean ====
section
/-! DEFINITION. The words of the Berjaf 2408: bytes of a frame, the 16-bit frame counter, tags, and the
numbers of sectors and carriers. -/

namespace Sys2Proof

/-- A byte of a frame (11.1). -/
abbrev Byte := BitVec 8

/-- A number of two bytes: the frame counter, the CRC (R133, R150). -/
abbrev Half := BitVec 16

/-- A subscriber terminal's 32-bit identity (R101). -/
abbrev Tag := BitVec 32

/-- Sector 0 to 3. -/
abbrev Sector := Fin 4

/-- Carrier 0 to 7. -/
abbrev Carrier := Fin 8

/-- Range class 0 to 7. -/
abbrev RangeClass := Fin 8

/-- A set of sectors, bit n for sector n (R183). -/
abbrev SectorSet := BitVec 4

/-- A set of carriers, bit n for carrier n (R183). -/
abbrev CarrierSet := BitVec 8

/-- A set of slots of one carrier, bit s for slot s (R144). -/
abbrev SlotSet := BitVec 16

/-- A set of the 22 site events, bit e for event number e (R177, R183). -/
abbrev EventSet := BitVec 22

/-- A notice enable set, bit (code - 1) for notice codes 1 to 7 (R155, R183). -/
abbrev NoticeSet := BitVec 7

end Sys2Proof
end

