-- ==== Sys2Proof/Syntax.lean ====
section
/-! DEFINITION. The commands of the part: one constructor for each row of spec/opcode_table.json. -/

namespace Sys2Proof

/-- The five serial ports: S0 to S3, one for each sector, and the site port SP. -/
inductive PortId where
  | sector (n : Sector)
  | site
  deriving DecidableEq, Repr

/-- What reaches the Frame Timer: the expiries of its own periods and the pulses on FSYNC (R136 to R141). -/
inductive TimerEvent where
  | freeRunPeriodExpiry
  | lockingPeriodExpiry
  | lockedSyncTimeout
  | holdoverPeriodExpiry
  | fsyncPulse (t : Nat)
  deriving DecidableEq, Repr

/-- One execution of a request: the port that asks, and what reaches the Frame Timer while the request is executing,
oldest first (R118, R164, R172; log 28). -/
structure Execution where
  port : PortId
  during : List TimerEvent
  deriving DecidableEq, Repr

/-- The commands. A request command says that the Grant Engine takes its next item and that this item is the
request of that kind at the head of the named port's Request Queue; the request's tag and parameters are the
ones held there (log 3). -/
inductive Instr where
  /-- R174: power-on, or RESET_N asserted and released. -/
  | deviceReset
  /-- R148: SEL asserted on a port. -/
  | transactionBegin (p : PortId)
  /-- R149, R150: SEL deasserted, with the whole bytes shifted in since it was asserted. -/
  | transactionEnd (p : PortId) (inbound : List Byte)
  /-- R136: the period P expires in FREE_RUN. -/
  | freeRunPeriodExpiry
  /-- R137: the period P expires in LOCKING. -/
  | lockingPeriodExpiry
  /-- R139: P + T passed in LOCKED without a pulse. -/
  | lockedSyncTimeout
  /-- R140: the period P expires in HOLDOVER. -/
  | holdoverPeriodExpiry
  /-- R137, R138, R141: a rising edge on FSYNC, t µs after the last boundary. -/
  | fsyncPulse (t : Nat)
  /-- R142: the 4 µs of the FMARK pulse are over. -/
  | fmarkPulseEnd
  /-- R145: slot n starts, n of 1 to 15. -/
  | slotStart (n : Nat)
  /-- R73: the engine takes a pending boundary. -/
  | boundaryProcessing
  /-- R166: the engine takes the internal item of sector port n's absence. -/
  | sectorDetachItem (n : Sector)
  /-- R71: the engine takes the internal item of the site port's absence. -/
  | siteAbsenceItem
  /-- R184: a request whose kind code is in no row of the kind table. -/
  | unknownKindRequest (p : Execution)
  | attach (p : Execution)
  | detach (p : Execution)
  | linkReport (p : Execution)
  | grantRequest (p : Execution)
  | renew (p : Execution)
  | release (p : Execution)
  | setNotices (p : Execution)
  | sectorReboot (p : Execution)
  | grantQuery (p : Execution)
  | subscriberQuery (p : Execution)
  | scheduleQuery (p : Execution)
  /-- R169; `time` is the time of START on the part's time base, in µs (R135). -/
  | start (p : Execution) (time : Nat)
  | standby (p : Execution)
  | softReset (p : Execution)
  | configure (p : Execution)
  | readConfig (p : Execution)
  | blockTiles (p : Execution)
  | setCeiling (p : Execution)
  | hold (p : Execution)
  | unhold (p : Execution)
  | forceRelease (p : Execution)
  | sectorReset (p : Execution)
  | templateWrite (p : Execution)
  | templateRead (p : Execution)
  | classWrite (p : Execution)
  | statusRead (p : Execution)
  | portStatus (p : Execution)
  | loadQuery (p : Execution)
  deriving DecidableEq, Repr

end Sys2Proof
end

