-- ==== Sys2Proof/Decode.lean ====
section
/-! DEFINITION. Commands spelled as words. No row of spec/opcode_table.json gives bits: the commands are requests
held in the part's queues, edges of pins and expiries of its own time base. -/

namespace Sys2Proof

/-- No row of the table gives bits, so no word spells a command (log 19). -/
def decodeTableWord (_nbits _w : Nat) : Option Instr := none

end Sys2Proof
end

