-- ==== Sys2Proof/Config.lean ====
section
/-! DEFINITION. The free values: what the spec leaves open and the part still goes on with. Each is a constant
with no body, applied to the counter `freeIndex` of State, so nothing can be proved about which value comes. -/

namespace Sys2Proof

/-- The byte that carries the number of records detached when that number is 256 and one byte cannot carry it
(the kind table of 11.3 gives the field one byte; R118, R183). DESIGN CHOICE, log 11; safe. -/
opaque Config.detachedCountByte : Nat → BitVec 8

/-- The order in which internal items appended at one boundary stand in the arbiter's list (R159, R160, R164 give
no order among the ports). The number codes a permutation. DESIGN CHOICE, log 9; safe. -/
opaque Config.absenceOrder : Nat → Nat

/-- Whether a SET_CEILING that names the ceiling already in force, with the load above it and no candidate
counted, latches EMERGENCY_OVER_CEILING (R96 says so, R97 says it changes nothing). DESIGN CHOICE, log 12; safe. -/
opaque Config.sameCeilingLatches : Nat → Bool

/-- Whether the number of grants that BLOCK_TILES or FORCE_RELEASE answers includes the grants shed at the end of
the same item (R14, R45, R95 do not say). DESIGN CHOICE, log 24; safe. -/
opaque Config.countsLateShed : Nat → Bool

end Sys2Proof
end

