-- ==== Sys2Proof/Machine/State.lean ====
section
/-! DEFINITION. The state of the Berjaf 2408: every table, list, counter, flag and output pin that the spec gives
the part, as plain data, with its device-reset value. -/

namespace Sys2Proof.Machine

/-! ### Names -/

/-- R168. -/
inductive OpState where
  | standby | running | draining
  deriving DecidableEq, Repr

/-- R133. -/
inductive TimerState where
  | stopped | freeRun | locking | locked | holdover
  deriving DecidableEq, Repr

/-- R157. -/
inductive Health where
  | silent | present | alert | absent
  deriving DecidableEq, Repr

/-- The last intake result of a port (R148, R150, R151). -/
inductive Intake where
  | none | taken | pollSeen | busy | crcBad | tooLong
  deriving DecidableEq, Repr

/-- R3. -/
inductive Direction where
  | dl | ul
  deriving DecidableEq, Repr

/-- The direction allowed of a template (R123). -/
inductive DirectionAllowed where
  | dl | ul | either
  deriving DecidableEq, Repr

/-- R20, R123. -/
inductive Mode where
  | oneShot | persistent
  deriving DecidableEq, Repr

/-- R123, R129. -/
inductive Rounding where
  | ceil | nearest
  deriving DecidableEq, Repr

/-- Priority classes in rising order. -/
inductive Priority where
  | background | standard | priority | emergency
  deriving DecidableEq, Repr

/-- The role of a held cell (R2). -/
inductive Role where
  | body | guard
  deriving DecidableEq, Repr

/-- R66. -/
inductive EntryKind where
  | activate | retire
  deriving DecidableEq, Repr

/-- R134. -/
inductive SyncSource where
  | internal | external
  deriving DecidableEq, Repr

/-- R134. -/
inductive EarlyPolicy where
  | truncate | ignore
  deriving DecidableEq, Repr

/-- R14. -/
inductive BlockMode where
  | gentle | force
  deriving DecidableEq, Repr

/-- R26. -/
inductive EndCause where
  | expired | released | notRenewed | rangeChanged | preempted | shed | blocked | handover | detached
  | chainBroken | sectorLost | sectorReset | forced | shutdown
  deriving DecidableEq, Repr

/-- The causes of a response (11.6). -/
inductive Cause where
  | ok | alreadyEnding | notRunning | notPermitted | sectorDisabled | unknownKind | badParameter | standbyOnly
  | badConfig | wrongState | tableFull | duplicateTag | unknownSubscriber | unknownGrant | grantLimit | suspect
  | classDisabled | directionNotAllowed | demandTooLarge | noPlacement | overBudget | chainInvalid | chainTooLong
  | tileInUse | templateInUse | classEnabled
  deriving DecidableEq, Repr

/-- The states of a grant record that is in use. FREE is the absence of the record from the Grant Table (log 17).
A WITHDRAWN grant carries its end cause, which R20 gives to no other state. -/
inductive GrantState where
  | pending | chained | active | releasing
  | withdrawn (cause : EndCause)
  deriving DecidableEq, Repr

/-- The states of a subscriber record that is in use (R102). FREE is its absence from the directory (log 17). -/
inductive SubState where
  | attached | suspect | detaching
  deriving DecidableEq, Repr

/-- The 22 site events (R177). -/
inductive Event where
  | syncLost | syncRegained | frameTruncated
  | portAlert (p : PortId)
  | portAbsent (p : PortId)
  | noticeLost (n : Sector)
  | budgetShed | emergencyOverCeiling | standbyReached | subscriberTableFull | grantTableFull
  deriving DecidableEq, Repr

/-! ### Records -/

/-- Sparse numbered data: the entries that are in use, by number, keys strictly rising (`Table.wf`). -/
abbrev Table (α : Type) := List (Nat × α)

/-- The holder of a cell and its role (R2). A cell that is not listed is free. -/
structure Holder where
  grant : Nat
  role : Role
  deriving DecidableEq, Repr

/-- A grant record that is in use (R20). -/
structure Grant where
  state : GrantState
  owner : Sector
  sub : Nat
  cls : Fin 16
  prio : Priority
  mode : Mode
  roundLength : Nat
  renewRequired : Bool
  roundNotice : Bool
  dir : Direction
  carrier : Carrier
  first : Nat
  k : Nat
  g : Nat
  excl : SectorSet
  cost : Nat
  remaining : Nat
  renewed : Bool
  stale : Bool
  pred : Option Nat
  succ : Option Nat
  admitted : Half
  deriving DecidableEq, Repr

/-- An entry of the Change List (R66). -/
structure Entry where
  id : Nat
  kind : EntryKind
  wait : Nat
  mark : Bool
  deriving DecidableEq, Repr

/-- A subscriber record that is in use (R101). -/
structure Subscriber where
  state : SubState
  tag : Tag
  home : Sector
  range : RangeClass
  quality : Fin 16
  run : Nat
  grants : List Nat
  deriving DecidableEq, Repr

/-- R120. -/
structure ClassEntry where
  template : Fin 24
  enabled : Bool
  deriving DecidableEq, Repr

/-- R123. -/
structure Template where
  mode : Mode
  roundLength : Nat
  rounding : Rounding
  maxSlots : Nat
  priority : Priority
  direction : DirectionAllowed
  carriers : CarrierSet
  roundNotice : Bool
  renewRequired : Bool
  deriving DecidableEq, Repr

/-- Sector adjacency (R6): one value for each pair of distinct sectors, so that it is symmetric and no sector is
adjacent to itself. -/
structure Adjacency where
  a01 : Bool
  a02 : Bool
  a03 : Bool
  a12 : Bool
  a13 : Bool
  a23 : Bool
  deriving DecidableEq, Repr

/-- The configuration items (R175). -/
structure ConfigItems where
  syncSource : SyncSource
  framePeriod : Nat
  syncTolerance : Nat
  earlyPolicy : EarlyPolicy
  holdoverLimit : Nat
  sectorsEnabled : SectorSet
  carriersEnabled : CarrierSet
  adjacency : Adjacency
  edgeThreshold : Nat
  guardTable : Vector Nat 8
  capacityTable : Vector Nat 8
  rangeFactor : Vector Nat 8
  carrierWeight : Vector Nat 8
  activationLead : Nat
  priorityPreempt : Bool
  qualityFloor : Nat
  sectorKeepalive : Nat
  siteKeepalive : Nat
  eventRoute : EventSet
  deriving DecidableEq, Repr

/-- The Frame Timer (R133), its current slot (R143; none while no frame is open) and the FMARK pin (R142). -/
structure Timer where
  state : TimerState
  lastBoundary : Nat
  missed : Nat
  lostMark : Bool
  frameCounter : Half
  slot : Option Nat
  fmark : Bool
  deriving DecidableEq, Repr

/-- The Keying Unit: the Air Map (R144) and the pins KEY0 to KEY7 (R145), bit c for carrier c. -/
structure Keying where
  airMap : Vector SlotSet 8
  keys : BitVec 8
  deriving DecidableEq, Repr

/-- The notices (11.5). -/
inductive Notice where
  | grantActive (id : Nat) (frame : Half)
  | grantEnded (id : Nat) (cause : EndCause)
  | roundEnd (id : Nat)
  | rangeChanged (handle : Nat) (old new : RangeClass)
  | subscriberSuspect (handle : Nat) (quality : Fin 16)
  | subscriberCleared (handle : Nat)
  | handedOver (tag : Tag) (handle : Nat)
  | linkResumed (frame : Half)
  deriving DecidableEq, Repr

/-- A request as it was taken from its frame (R151). -/
structure Request where
  kind : Byte
  tag : Byte
  params : List Byte
  deriving DecidableEq, Repr

/-- An entry of an Outbound Queue (R152). -/
inductive OutEntry where
  | response (tag : Byte) (cause : Cause) (payload : List Byte)
  | notice (n : Notice)
  deriving DecidableEq, Repr

/-- An open transaction (R148, R149): the outbound frame composed at its begin, whether that frame still is the
Outbound Queue's head entry, whether it carried the NOTICE_LOST flag, and whether a notice for the port was lost
during the transaction. -/
structure Txn where
  frame : List Byte
  isHead : Bool
  carriedLost : Bool
  lostDuring : Bool
  deriving DecidableEq, Repr

/-- A Link Port (R152 to R158). The fields noticeLost and notices belong to sector ports (log 20). -/
structure Port where
  rq : List Request
  oq : List OutEntry
  owed : Nat
  health : Health
  badRun : Nat
  goodRun : Nat
  keepalive : Nat
  noticeLost : Bool
  lastIntake : Intake
  notices : NoticeSet
  txn : Option Txn
  deriving DecidableEq, Repr

/-- The five Link Ports. -/
structure Ports where
  s0 : Port
  s1 : Port
  s2 : Port
  s3 : Port
  sp : Port
  deriving DecidableEq, Repr

/-- Internal items (R159, R160, R166). -/
inductive InternalItem where
  | sectorDetach (n : Sector)
  | siteAbsence
  deriving DecidableEq, Repr

/-- What the Intake Arbiter may hand to the engine (R164). -/
inductive Item where
  | boundary
  | internal (i : InternalItem)
  | request (p : PortId)
  deriving DecidableEq, Repr

/-- The Intake Arbiter (R164), the port whose request executes (R152) and the discard mark of R153. -/
structure Arbiter where
  pendingBoundaries : Nat
  internal : List InternalItem
  lastServed : Sector
  executing : Option PortId
  discard : Bool
  deriving DecidableEq, Repr

/-- What the Grant Engine reads and changes: the Resource Grid (R1, R2, R13), the Grant Table and the Admission
List (R20, R23), the Change List with HOLD and flush (R66, R69), the Load Account (R87), and the Subscriber
Directory with its Tag Map (R101, R104). -/
structure Engine where
  cells : Table Holder
  blocked : Table Unit
  grants : Table Grant
  admission : List Nat
  changes : List Entry
  hold : Bool
  flush : Bool
  ceiling : Nat
  load : Nat
  emergencyLoad : Nat
  subs : Table Subscriber
  tagMap : Table Nat
  deriving DecidableEq, Repr

/-- The machine. `pending` is the queue of commands that wait, first in, first out; `freeIndex` is the model's own
counter for the free values of Config (log 11). -/
structure State where
  pending : List Instr
  op : OpState
  items : ConfigItems
  events : EventSet
  timer : Timer
  keying : Keying
  eng : Engine
  classes : Vector ClassEntry 16
  templates : Vector Template 24
  arb : Arbiter
  ports : Ports
  freeIndex : Nat
  deriving DecidableEq, Repr

/-! ### The ways a step can stop -/

/-- The spec names nothing that stops the part: what it cannot do it answers with a cause, and what goes wrong it
latches as a site event. No fault is raised. -/
inductive Fault where
  deriving DecidableEq, Repr

/-- Refusals. -/
inductive Refusal where
  /-- A command of the table that has no meaning in the model. No command is left so. Safe. -/
  | notModelled (mnemonic : String)
  deriving DecidableEq, Repr

/-! ### Device reset values -/

/-- The defaults of R175. -/
def ConfigItems.default : ConfigItems where
  syncSource := .internal
  framePeriod := 10000
  syncTolerance := 50
  earlyPolicy := .truncate
  holdoverLimit := 32
  sectorsEnabled := 0b0111#4
  carriersEnabled := 0b00001111#8
  adjacency := ⟨true, true, true, true, true, true⟩
  edgeThreshold := 5
  guardTable := #v[0, 0, 0, 1, 1, 2, 2, 3]
  capacityTable := #v[48, 48, 40, 40, 32, 24, 16, 12]
  rangeFactor := #v[1, 1, 2, 2, 3, 4, 6, 8]
  carrierWeight := #v[4, 4, 4, 4, 4, 4, 4, 4]
  activationLead := 2
  priorityPreempt := false
  qualityFloor := 4
  sectorKeepalive := 50
  siteKeepalive := 200
  eventRoute := BitVec.allOnes 22

/-- The reset values of R123. -/
def Template.reset : Template where
  mode := .oneShot
  roundLength := 1
  rounding := .nearest
  maxSlots := 1
  priority := .standard
  direction := .either
  carriers := 0xFF#8
  roundNotice := false
  renewRequired := false

/-- R133, R174. The time of the last boundary has no reset value in the spec: 0 is a DESIGN CHOICE (log 7). -/
def Timer.reset : Timer where
  state := .stopped
  lastBoundary := 0
  missed := 0
  lostMark := false
  frameCounter := 0
  slot := none
  fmark := false

/-- The empty Air Map (R144). -/
def emptyAirMap : Vector SlotSet 8 := #v[0, 0, 0, 0, 0, 0, 0, 0]

/-- R144, R174. -/
def Keying.reset : Keying where
  airMap := emptyAirMap
  keys := 0

/-- Every notice kind (R155). -/
def allNotices : NoticeSet := 0x7F#7

/-- R167. -/
def Port.reset : Port where
  rq := []
  oq := []
  owed := 0
  health := .silent
  badRun := 0
  goodRun := 0
  keepalive := 0
  noticeLost := false
  lastIntake := .none
  notices := allNotices
  txn := none

/-- R167. -/
def Ports.reset : Ports := ⟨Port.reset, Port.reset, Port.reset, Port.reset, Port.reset⟩

/-- R167. -/
def Arbiter.reset : Arbiter where
  pendingBoundaries := 0
  internal := []
  lastServed := 3
  executing := none
  discard := false

/-- R19, R46, R69, R100, R119. -/
def Engine.reset : Engine where
  cells := []
  blocked := []
  grants := []
  admission := []
  changes := []
  hold := false
  flush := false
  ceiling := 1024
  load := 0
  emergencyLoad := 0
  subs := []
  tagMap := []

/-- Entry c names template c, for c = 0 to 15, and every enabled flag is off (R120). -/
def resetClasses : Vector ClassEntry 16 :=
  #v[⟨0, false⟩, ⟨1, false⟩, ⟨2, false⟩, ⟨3, false⟩, ⟨4, false⟩, ⟨5, false⟩, ⟨6, false⟩, ⟨7, false⟩,
     ⟨8, false⟩, ⟨9, false⟩, ⟨10, false⟩, ⟨11, false⟩, ⟨12, false⟩, ⟨13, false⟩, ⟨14, false⟩, ⟨15, false⟩]

/-- The machine after device reset (R174), with no command waiting. -/
def State.reset : State where
  pending := []
  op := .standby
  items := ConfigItems.default
  events := 0
  timer := Timer.reset
  keying := Keying.reset
  eng := Engine.reset
  classes := resetClasses
  templates := Vector.replicate 24 Template.reset
  arb := Arbiter.reset
  ports := Ports.reset
  freeIndex := 0

end Sys2Proof.Machine
end

