-- ==== Sys2Proof/Machine/Operands.lean ====
section
/-! DEFINITION. The operand forms of the requests: codes and encodings of 11.2 to 11.6, the parameters of each
request kind (R185, R186), and the payloads of responses and notices (R187). -/

namespace Sys2Proof.Machine

/-! ### Numbers and enumerations (R183) -/

/-- A number as one byte. -/
def byteOf (n : Nat) : Byte := BitVec.ofNat 8 n

/-- A number as two bytes, most significant byte first. -/
def halfBytes (n : Nat) : List Byte := [byteOf (n / 256), byteOf n]

/-- A tag as four bytes, most significant byte first. -/
def tagBytes (t : Tag) : List Byte :=
  [t.extractLsb' 24 8, t.extractLsb' 16 8, t.extractLsb' 8 8, t.extractLsb' 0 8]

/-- A number of two bytes, most significant byte first. -/
def halfOf (hi lo : Byte) : Nat := hi.toNat * 256 + lo.toNat

/-- The bit of a flags byte. -/
def bitAt (i : Nat) (b : Bool) : Byte := if b then byteOf (2 ^ i) else 0

/-- Yes or on is 1, no or off is 0. -/
def yesNoByte (b : Bool) : Byte := if b then 1 else 0

/-- A yes/no or on/off byte, which must be 0 or 1 (R186). -/
def yesNo? (b : Byte) : Option Bool := if b = 0 then some false else if b = 1 then some true else none

/-- A byte that must be below n. -/
def below? (n : Nat) (b : Byte) : Option (Fin n) := if h : b.toNat < n then some ⟨b.toNat, h⟩ else none

/-- A frame count of 1 to 256 in one byte, 0 meaning 256. -/
def frameCount (b : Byte) : Nat := if b = 0 then 256 else b.toNat

/-- An absent grant id is carried as FFh. -/
def idByte : Option Nat → Byte
  | none => 0xFF
  | some i => byteOf i

def Priority.code : Priority → Nat
  | .background => 0 | .standard => 1 | .priority => 2 | .emergency => 3

def Direction.code : Direction → Nat
  | .dl => 0 | .ul => 1

def DirectionAllowed.code : DirectionAllowed → Nat
  | .dl => 0 | .ul => 1 | .either => 2

def Mode.code : Mode → Nat
  | .oneShot => 0 | .persistent => 1

def Rounding.code : Rounding → Nat
  | .ceil => 0 | .nearest => 1

def GrantState.code : GrantState → Nat
  | .pending => 1 | .chained => 2 | .active => 3 | .releasing => 4 | .withdrawn _ => 5

def SubState.code : SubState → Nat
  | .attached => 1 | .suspect => 2 | .detaching => 3

def OpState.code : OpState → Nat
  | .standby => 0 | .running => 1 | .draining => 2

def TimerState.code : TimerState → Nat
  | .stopped => 0 | .freeRun => 1 | .locking => 2 | .locked => 3 | .holdover => 4

def Health.code : Health → Nat
  | .silent => 0 | .present => 1 | .alert => 2 | .absent => 3

def EntryKind.code : EntryKind → Nat
  | .activate => 1 | .retire => 2

def EndCause.code : EndCause → Nat
  | .expired => 0 | .released => 1 | .notRenewed => 2 | .rangeChanged => 3 | .preempted => 4 | .shed => 5
  | .blocked => 6 | .handover => 7 | .detached => 8 | .chainBroken => 9 | .sectorLost => 10
  | .sectorReset => 11 | .forced => 12 | .shutdown => 13

/-- The cause codes of 11.6. -/
def Cause.code : Cause → Byte
  | .ok => 0x00 | .alreadyEnding => 0x01 | .notRunning => 0x02 | .notPermitted => 0x03
  | .sectorDisabled => 0x04 | .unknownKind => 0x05 | .badParameter => 0x06 | .standbyOnly => 0x07
  | .badConfig => 0x08 | .wrongState => 0x09 | .tableFull => 0x0A | .duplicateTag => 0x0B
  | .unknownSubscriber => 0x0C | .unknownGrant => 0x0D | .grantLimit => 0x0E | .suspect => 0x0F
  | .classDisabled => 0x10 | .directionNotAllowed => 0x11 | .demandTooLarge => 0x12 | .noPlacement => 0x13
  | .overBudget => 0x14 | .chainInvalid => 0x15 | .chainTooLong => 0x16 | .tileInUse => 0x17
  | .templateInUse => 0x18 | .classEnabled => 0x19

/-- The intake result codes of 11.6. -/
def Intake.code : Intake → Nat
  | .none => 0 | .taken => 1 | .pollSeen => 2 | .busy => 3 | .crcBad => 4 | .tooLong => 5

def direction? (b : Byte) : Option Direction :=
  if b = 0 then some .dl else if b = 1 then some .ul else none

def directionAllowed? (b : Byte) : Option DirectionAllowed :=
  if b = 0 then some .dl else if b = 1 then some .ul else if b = 2 then some .either else none

def mode? (b : Byte) : Option Mode :=
  if b = 0 then some .oneShot else if b = 1 then some .persistent else none

def rounding? (b : Byte) : Option Rounding :=
  if b = 0 then some .ceil else if b = 1 then some .nearest else none

def priority? (b : Byte) : Option Priority :=
  if b = 0 then some .background else if b = 1 then some .standard
  else if b = 2 then some .priority else if b = 3 then some .emergency else none

def blockMode? (b : Byte) : Option BlockMode :=
  if b = 0 then some .gentle else if b = 1 then some .force else none

/-! ### Request kinds (11.3) -/

/-- The request kinds that the engine executes. -/
inductive Kind where
  | attach | detach | linkReport | grantRequest | renew | release | setNotices | sectorReboot
  | grantQuery | subscriberQuery | scheduleQuery
  | start | standby | softReset | configure | readConfig | blockTiles | setCeiling | hold | unhold
  | forceRelease | sectorReset | templateWrite | templateRead | classWrite | statusRead | portStatus | loadQuery
  deriving DecidableEq, Repr

/-- The code column of the kind table. -/
def Kind.code : Kind → Byte
  | .attach => 0x10 | .detach => 0x11 | .linkReport => 0x12 | .grantRequest => 0x13 | .renew => 0x14
  | .release => 0x15 | .setNotices => 0x16 | .sectorReboot => 0x17
  | .grantQuery => 0x20 | .subscriberQuery => 0x21 | .scheduleQuery => 0x22
  | .start => 0x30 | .standby => 0x31 | .softReset => 0x32 | .configure => 0x33 | .readConfig => 0x34
  | .blockTiles => 0x35 | .setCeiling => 0x36 | .hold => 0x37 | .unhold => 0x38 | .forceRelease => 0x39
  | .sectorReset => 0x3A | .templateWrite => 0x3B | .templateRead => 0x3C | .classWrite => 0x3D
  | .statusRead => 0x3E | .portStatus => 0x3F | .loadQuery => 0x40

/-- Every request kind. -/
def Kind.all : List Kind :=
  [.attach, .detach, .linkReport, .grantRequest, .renew, .release, .setNotices, .sectorReboot,
   .grantQuery, .subscriberQuery, .scheduleQuery,
   .start, .standby, .softReset, .configure, .readConfig, .blockTiles, .setCeiling, .hold, .unhold,
   .forceRelease, .sectorReset, .templateWrite, .templateRead, .classWrite, .statusRead, .portStatus, .loadQuery]

/-- The kind a code names, none for a code that is in no row of the kind table (R184). -/
def Kind.ofCode? (b : Byte) : Option Kind := Kind.all.find? (fun k => k.code == b)

/-- A sector kind refused with SECTOR_DISABLED at check 4 of R162 when its port's sector is not enabled. -/
def Kind.closedWhenDisabled : Kind → Bool
  | .detach | .linkReport | .renew | .release => true
  | _ => false

/-! ### Parameters (R185, R186): none when the length or a field does not fit -/

/-- A kind without parameters. -/
def parseNone : List Byte → Option Unit
  | [] => some ()
  | _ => none

/-- One grant id, 0 to 95. -/
def parseGrantId : List Byte → Option Nat
  | [i] => (below? 96 i).map (·.val)
  | _ => none

/-- One handle, any byte. -/
def parseHandle : List Byte → Option Nat
  | [h] => some h.toNat
  | _ => none

/-- ATTACH: tag, nonzero, and range class. -/
def parseAttach : List Byte → Option (Tag × RangeClass)
  | [a, b, c, d, r] =>
    let tag : Tag := a ++ b ++ c ++ d
    if tag = 0 then none else (below? 8 r).map (fun x => (tag, x))
  | _ => none

/-- LINK_REPORT: handle, range class, quality. -/
def parseLinkReport : List Byte → Option (Nat × RangeClass × Fin 16)
  | [h, r, q] =>
    match below? 8 r, below? 16 q with
    | some r', some q' => some (h.toNat, r', q')
    | _, _ => none
  | _ => none

/-- The parameters of GRANT_REQUEST (2.5). -/
structure GrantReq where
  handle : Nat
  cls : Fin 16
  dir : Direction
  demand : Nat
  pred : Option Nat
  deriving DecidableEq, Repr

/-- A predecessor byte: FFh for none, otherwise 0 to 95. -/
def predecessor? (b : Byte) : Option (Option Nat) :=
  if b = 0xFF then some none else (below? 96 b).map (fun i => some i.val)

/-- GRANT_REQUEST: handle, class, direction, demand 1 to 4095, predecessor. -/
def parseGrantRequest : List Byte → Option GrantReq
  | [h, c, d, d1, d0, p] =>
    match below? 16 c, direction? d, predecessor? p with
    | some c', some d', some p' =>
      let n := halfOf d1 d0
      if 1 ≤ n ∧ n ≤ 4095 then some ⟨h.toNat, c', d', n, p'⟩ else none
    | _, _, _ => none
  | _ => none

/-- SET_NOTICES: a mask whose bit 7 names LINK_RESUMED and is ignored (R155, R183). -/
def parseNotices : List Byte → Option NoticeSet
  | [m] => some (m.setWidth 7)
  | _ => none

/-- SCHEDULE_QUERY: direction and carrier, and from SP a sector as well; from a sector port the sector is the
port's own (R18, R185). -/
def parseSchedule (p : PortId) (params : List Byte) : Option (Direction × Carrier × Sector) :=
  match p, params with
  | .sector n, [d, c] =>
    match direction? d, below? 8 c with
    | some d', some c' => some (d', c', n)
    | _, _ => none
  | .site, [d, c, n] =>
    match direction? d, below? 8 c, below? 4 n with
    | some d', some c', some n' => some (d', c', n')
    | _, _, _ => none
  | _, _ => none

/-- CONFIGURE: item, index, value, taken whole here; their ranges are checked against the item table (R175). -/
def parseConfigure : List Byte → Option (Byte × Nat × Nat)
  | [i, x, v1, v0] => some (i, x.toNat, halfOf v1 v0)
  | _ => none

/-- READ_CONFIG: item, index. -/
def parseReadConfig : List Byte → Option (Byte × Nat)
  | [i, x] => some (i, x.toNat)
  | _ => none

/-- The parameters of BLOCK_TILES (R14). -/
structure BlockReq where
  dir : Direction
  carrier : Carrier
  first : Nat
  count : Nat
  on : Bool
  mode : BlockMode
  deriving DecidableEq, Repr

/-- BLOCK_TILES: the first slot and the count name slots 1 to 15 only (R14). -/
def parseBlock : List Byte → Option BlockReq
  | [d, c, f, n, o, m] =>
    match direction? d, below? 8 c, yesNo? o, blockMode? m with
    | some d', some c', some o', some m' =>
      if 1 ≤ f.toNat ∧ f.toNat ≤ 15 ∧ 1 ≤ n.toNat ∧ n.toNat ≤ 15 ∧ f.toNat + n.toNat - 1 ≤ 15 then
        some ⟨d', c', f.toNat, n.toNat, o', m'⟩
      else none
    | _, _, _, _ => none
  | _ => none

/-- SET_CEILING: 0 to 4095 (R97). -/
def parseCeiling : List Byte → Option Nat
  | [c1, c0] => if halfOf c1 c0 ≤ 4095 then some (halfOf c1 c0) else none
  | _ => none

/-- SECTOR_RESET: sector 0 to 3. -/
def parseSector : List Byte → Option Sector
  | [n] => below? 4 n
  | _ => none

/-- TEMPLATE_READ: template 0 to 23. -/
def parseTemplateIndex : List Byte → Option (Fin 24)
  | [t] => below? 24 t
  | _ => none

/-- The template layout of 11.3; the pad bits of the flags byte are ignored. -/
def parseTemplate (mode len rnd max prio dir mask flags : Byte) : Option Template :=
  match mode? mode, rounding? rnd, priority? prio, directionAllowed? dir with
  | some m, some r, some p, some d =>
    if 1 ≤ max.toNat ∧ max.toNat ≤ 8 ∧ mask ≠ 0 then
      some ⟨m, frameCount len, r, max.toNat, p, d, mask, flags.getLsbD 0, flags.getLsbD 1⟩
    else none
  | _, _, _, _ => none

/-- TEMPLATE_WRITE: template index and a value for every field (R124). -/
def parseTemplateWrite : List Byte → Option (Fin 24 × Template)
  | [t, mode, len, rnd, max, prio, dir, mask, flags] =>
    match below? 24 t, parseTemplate mode len rnd max prio dir mask flags with
    | some i, some x => some (i, x)
    | _, _ => none
  | _ => none

/-- CLASS_WRITE: class, template index, enable (R121). -/
def parseClassWrite : List Byte → Option (Fin 16 × Fin 24 × Bool)
  | [c, t, e] =>
    match below? 16 c, below? 24 t, yesNo? e with
    | some c', some t', some e' => some (c', t', e')
    | _, _, _ => none
  | _ => none

/-! ### Responses and notices -/

/-- What a request is answered: a cause and a payload (R187). -/
structure Reply where
  cause : Cause
  payload : List Byte
  deriving DecidableEq, Repr

/-- OK with the payload of the kind table. -/
def Reply.ok (payload : List Byte) : Reply := ⟨.ok, payload⟩

/-- A refusal with an empty payload. -/
def Reply.no (c : Cause) : Reply := ⟨c, []⟩

/-- Notice kind codes (11.5). -/
def Notice.code : Notice → Nat
  | .grantActive _ _ => 1 | .grantEnded _ _ => 2 | .roundEnd _ => 3 | .rangeChanged _ _ _ => 4
  | .subscriberSuspect _ _ => 5 | .subscriberCleared _ => 6 | .handedOver _ _ => 7 | .linkResumed _ => 8

/-- Notice payloads (11.5). -/
def Notice.payload : Notice → List Byte
  | .grantActive i f => byteOf i :: halfBytes f.toNat
  | .grantEnded i c => [byteOf i, byteOf c.code]
  | .roundEnd i => [byteOf i]
  | .rangeChanged h o n => [byteOf h, byteOf o.val, byteOf n.val]
  | .subscriberSuspect h q => [byteOf h, byteOf q.val]
  | .subscriberCleared h => [byteOf h]
  | .handedOver t h => tagBytes t ++ [byteOf h]
  | .linkResumed f => halfBytes f.toNat

/-- The flags byte of the grant record layout. -/
def Grant.flags (g : Grant) : Byte :=
  bitAt 0 (g.mode = .persistent) ||| bitAt 1 (g.dir = .ul) ||| bitAt 2 g.renewRequired |||
  bitAt 3 g.roundNotice ||| bitAt 4 g.renewed ||| bitAt 5 g.stale

/-- The end cause of a WITHDRAWN grant, FFh for any other state. -/
def GrantState.endCauseByte : GrantState → Byte
  | .withdrawn c => byteOf c.code
  | _ => 0xFF

/-- The entry byte of the grant record layout: wait in bits 1 and 0, mark in bit 2, kind in bits 5 and 4, all 0 when
the grant has no entry (R44). Bits 7 and 6 are pad; bit 3 is in no field of the layout and is sent as 0, a DESIGN CHOICE
(log 27). -/
def entryByte : Option Entry → Byte
  | none => 0
  | some e => byteOf e.wait ||| bitAt 2 e.mark ||| byteOf (e.kind.code * 16)

/-- The grant record layout, 22 bytes. -/
def grantPayload (i : Nat) (g : Grant) (e : Option Entry) : List Byte :=
  [byteOf i, byteOf g.state.code, byteOf g.owner.val, byteOf g.sub, byteOf g.cls.val, byteOf g.prio.code, g.flags,
   byteOf g.carrier.val, byteOf g.first, byteOf g.k, byteOf g.g, g.excl.setWidth 8] ++ halfBytes g.cost ++
  [byteOf g.roundLength, byteOf g.remaining, idByte g.pred, idByte g.succ] ++ halfBytes g.admitted.toNat ++
  [g.state.endCauseByte, entryByte e]

/-- The template layout, 8 bytes. -/
def Template.bytes (t : Template) : List Byte :=
  [byteOf t.mode.code, byteOf t.roundLength, byteOf t.rounding.code, byteOf t.maxSlots, byteOf t.priority.code,
   byteOf t.direction.code, t.carriers, bitAt 0 t.roundNotice ||| bitAt 1 t.renewRequired]

end Sys2Proof.Machine
end

