-- ==== Sys2Proof/Machine/Flags.lean ====
section
/-! DEFINITION. The flags and sets the part computes: event numbers and the event set (R177, R183), the notice
enable set (R155), the port flags of an outbound header (R148), ATTN (R156, R178), the KEY lines of a slot (R145),
and the CRC (R150). -/

namespace Sys2Proof.Machine

/-- S0 to S3 are 0 to 3, SP is 4. -/
def portNumber : PortId → Nat
  | .sector n => n.val
  | .site => 4

/-- Event numbers (11.4). -/
def Event.number : Event → Nat
  | .syncLost => 0 | .syncRegained => 1 | .frameTruncated => 2
  | .portAlert p => 3 + portNumber p
  | .portAbsent p => 8 + portNumber p
  | .noticeLost n => 13 + n.val
  | .budgetShed => 17 | .emergencyOverCeiling => 18 | .standbyReached => 19
  | .subscriberTableFull => 20 | .grantTableFull => 21

/-- An event as a set of one. -/
def Event.bit (e : Event) : EventSet := BitVec.ofNat 22 (2 ^ e.number)

/-- Latching an event: the set holds each event at most once (R177). -/
def latchEvent (e : Event) (set : EventSet) : EventSet := set ||| e.bit

/-- Whether the event is latched. -/
def Event.isIn (e : Event) (set : EventSet) : Bool := set.getLsbD e.number

/-- Whether a notice kind is in a notice enable set: bit (code - 1). LINK_RESUMED is no member (R155). -/
def Notice.enabledIn (n : Notice) (set : NoticeSet) : Bool := set.getLsbD (n.code - 1)

/-- The members of a sector set in ascending order. -/
def sectorsOf (x : SectorSet) : List Sector := [(0 : Sector), 1, 2, 3].filter (fun n => x.getLsbD n.val)

/-- The members of a carrier set in ascending order. -/
def carriersOf (x : CarrierSet) : List Carrier :=
  [(0 : Carrier), 1, 2, 3, 4, 5, 6, 7].filter (fun c => x.getLsbD c.val)

/-- The port flags byte: bit 0 NOTICE_LOST of a sector port, bit 1 ALERT, bit 2 RUNNING (R148, 11.1). -/
def portFlags (lost : Bool) (h : Health) (op : OpState) : Byte :=
  bitAt 0 lost ||| bitAt 1 (h = .alert) ||| bitAt 2 (op = .running)

/-- ATTN of a sector port follows its Outbound Queue (R156). -/
def attnSector (oq : List OutEntry) : Bool := !oq.isEmpty

/-- ATTN of the site port follows its Outbound Queue and the latched events that are routed (R156, R178). -/
def attnSite (oq : List OutEntry) (events routes : EventSet) : Bool := !oq.isEmpty || (events &&& routes) != 0

/-- The KEY lines of slot s: line c is asserted when the Air Map's set of carrier c holds s (R145). -/
def keysAt (airMap : Vector SlotSet 8) (s : Nat) : BitVec 8 :=
  [(0 : Carrier), 1, 2, 3, 4, 5, 6, 7].foldl
    (fun acc c => if airMap[c].getLsbD s then acc ||| BitVec.ofNat 8 (2 ^ c.val) else acc) 0

/-- The slots first to first + k - 1 as a set. -/
def slotRun (first k : Nat) : SlotSet := BitVec.ofNat 16 ((2 ^ k - 1) * 2 ^ first)

/-- One byte into the CRC, most significant bit first, polynomial x^16 + x^12 + x^5 + 1 (R150; log 14). -/
def crcByte (crc : Half) (b : Byte) : Half :=
  (List.range 8).foldl (fun c _ => if c.msb then (c <<< 1) ^^^ 0x1021#16 else c <<< 1)
    (crc ^^^ (b.setWidth 16 <<< 8))

/-- The CRC over a list of bytes, initial value FFFFh (R150). -/
def crcOf (bytes : List Byte) : Half := bytes.foldl crcByte 0xFFFF#16

/-- A frame body with its CRC appended, most significant byte first (R150, R182). -/
def withCrc (bytes : List Byte) : List Byte := bytes ++ halfBytes (crcOf bytes).toNat

end Sys2Proof.Machine
end

