-- ==== Sys2Proof/Machine/Ops.lean ====
section
/-! DEFINITION. The named operations over the state: sparse tables, ports and their queues (R152 to R154), events
(R177), the ending of grants (R11, R24, R25, R42, R81, R82), the arbiter's choice and the handing over of a request
(R164, R165). -/

namespace Sys2Proof.Machine

/-! ### Sparse tables -/

/-- The value at number i, none when i is not listed. -/
def Table.get? {α : Type} : Table α → Nat → Option α
  | [], _ => none
  | (k, v) :: t, i => if k = i then some v else Table.get? t i

/-- Whether i is listed. -/
def Table.has {α : Type} (t : Table α) (i : Nat) : Bool := (Table.get? t i).isSome

/-- Set the value at i, keeping the keys strictly rising. -/
def Table.set {α : Type} : Table α → Nat → α → Table α
  | [], i, v => [(i, v)]
  | (k, w) :: t, i, v =>
    if i < k then (i, v) :: (k, w) :: t
    else if k = i then (i, v) :: t
    else (k, w) :: Table.set t i v

/-- Take i off the list. -/
def Table.del {α : Type} (t : Table α) (i : Nat) : Table α := t.filter (fun x => x.1 != i)

/-- Change the value at i, when i is listed. -/
def Table.upd {α : Type} (t : Table α) (i : Nat) (f : α → α) : Table α :=
  t.map (fun x => if x.1 = i then (x.1, f x.2) else x)

/-- Change the value at an index that may be absent. -/
def Table.upd? {α : Type} (t : Table α) (i : Option Nat) (f : α → α) : Table α :=
  match i with
  | none => t
  | some j => Table.upd t j f

/-- The canonical form: keys strictly rising. -/
abbrev Table.wf {α : Type} (t : Table α) : Prop := t.Pairwise (fun x y => x.1 < y.1)

/-- The lowest number below n that is not listed: lowest-free-first allocation (R21, R105). -/
def Table.firstFree? {α : Type} (t : Table α) (n : Nat) : Option Nat :=
  (List.range n).find? (fun i => !(Table.has t i))

/-! ### Ports, events, frame counter -/

def Ports.get (ps : Ports) : PortId → Port
  | .site => ps.sp
  | .sector n => match n with
    | 0 => ps.s0
    | 1 => ps.s1
    | 2 => ps.s2
    | 3 => ps.s3

def Ports.set (ps : Ports) (p : PortId) (v : Port) : Ports :=
  match p with
  | .site => { ps with sp := v }
  | .sector n => match n with
    | 0 => { ps with s0 := v }
    | 1 => { ps with s1 := v }
    | 2 => { ps with s2 := v }
    | 3 => { ps with s3 := v }

/-- The ports in the order S0, S1, S2, S3, SP. -/
def allPorts : List PortId := [.sector 0, .sector 1, .sector 2, .sector 3, .site]

def State.port (s : State) (p : PortId) : Port := s.ports.get p

def State.setPort (s : State) (p : PortId) (v : Port) : State := { s with ports := s.ports.set p v }

/-- Latch a site event (R177). -/
def State.latch (s : State) (e : Event) : State := { s with events := latchEvent e s.events }

/-- The sector is not in SECTORS_ENABLED (R162). -/
def State.sectorDisabled (s : State) (n : Sector) : Bool := !s.items.sectorsEnabled.getLsbD n.val

/-- ATTN of a port, a function of the state (R156, R178). -/
def State.attn (s : State) : PortId → Bool
  | .sector n => attnSector (s.port (.sector n)).oq
  | .site => attnSite (s.port .site).oq s.events s.items.eventRoute

/-- The i-th byte on SDO: the frame of the open transaction, then fill bytes (R148, R182). While no transaction is
open, with SEL still held after a reset included (R174), the spec gives SDO no value: fill bytes are a DESIGN CHOICE
(log 26). -/
def State.sdo (s : State) (p : PortId) (i : Nat) : Byte :=
  match (s.port p).txn with
  | none => 0xFF
  | some t => t.frame.getD i 0xFF

/-! ### Queues (R152, R153, R154) -/

/-- Room for one more entry beside the responses owed: OQ count plus owed count below 16. -/
def Port.room (p : Port) : Bool := decide (p.oq.length + p.owed < 16)

/-- The flush of a port's queues; `own` when the port's own executing request causes it (R153). The frame of an
open transaction stays on the wire and is the head entry no longer (R149). -/
def Port.flush (own : Bool) (p : Port) : Port :=
  { p with
    rq := []
    oq := []
    owed := if own then 1 else 0
    noticeLost := false
    lastIntake := .none
    txn := p.txn.map (fun t => { t with isHead := false }) }

/-- The flush of port p (R153): an executing request of p is marked when another event causes the flush. A request
that is marked already owes no response, so its own flush leaves none owed (R152, R153; log 29). -/
def State.flushPort (p : PortId) (own : Bool) (s : State) : State :=
  let s' := s.setPort p ((s.port p).flush (own && !s.arb.discard))
  if !own && s.arb.executing = some p then { s' with arb := { s'.arb with discard := true } } else s'

/-- A notice for sector port n (R154). -/
def State.placeNotice (s : State) (n : Sector) (x : Notice) : State :=
  let p := s.port (.sector n)
  if p.health = .absent then s
  else if !x.enabledIn p.notices then s
  else if p.room then s.setPort (.sector n) { p with oq := p.oq ++ [.notice x] }
  else
    (s.setPort (.sector n)
      { p with noticeLost := true, txn := p.txn.map (fun t => { t with lostDuring := true }) }).latch (.noticeLost n)

/-- Notices in the order they arise. -/
def State.placeNotices (s : State) (out : List (Sector × Notice)) : State :=
  out.foldl (fun s x => s.placeNotice x.1 x.2) s

/-- The response of the executing request: placed in the port's OQ, or discarded when the request is marked
(R152, R153). -/
def State.placeResponse (s : State) (p : PortId) (tag : Byte) (rep : Reply) : State :=
  let arb := { s.arb with executing := none, discard := false }
  if s.arb.discard then { s with arb := arb }
  else
    let q := s.port p
    { s.setPort p { q with oq := q.oq ++ [.response tag rep.cause rep.payload], owed := q.owed - 1 } with arb := arb }

/-! ### Grants -/

/-- PENDING, CHAINED, ACTIVE or RELEASING: counted in the load (R87). -/
def GrantState.counted : GrantState → Bool
  | .withdrawn _ => false
  | _ => true

/-- ACTIVE or RELEASING. -/
def GrantState.keyed : GrantState → Bool
  | .active | .releasing => true
  | _ => false

/-- WITHDRAWN. -/
def GrantState.isWithdrawn : GrantState → Bool
  | .withdrawn _ => true
  | _ => false

/-- PENDING or CHAINED. -/
def GrantState.offAir : GrantState → Bool
  | .pending | .chained => true
  | _ => false

/-- EXPIRED and RELEASED are the normal ends (R26). -/
def EndCause.normal : EndCause → Bool
  | .expired | .released => true
  | _ => false

/-- The engine's work within one item: its state, the notices that arise in their order, how many grants it ended
or withdrew, and the site events it raises (log 18). -/
structure Work where
  eng : Engine
  out : List (Sector × Notice)
  ended : Nat
  raised : EventSet
  deriving DecidableEq, Repr

/-- Work at the begin of an item. -/
def Work.of (e : Engine) : Work := ⟨e, [], 0, 0⟩

/-- A notice arises for sector n. -/
def Work.say (w : Work) (n : Sector) (x : Notice) : Work := { w with out := w.out ++ [(n, x)] }

/-- One more grant ended or withdrawn. -/
def Work.tally (w : Work) : Work := { w with ended := w.ended + 1 }

def Work.raise (w : Work) (e : Event) : Work := { w with raised := latchEvent e w.raised }

def Work.onEngine (w : Work) (f : Engine → Engine) : Work := { w with eng := f w.eng }

/-- The state after the engine's work: its tables, the events it raised, its notices placed (R154). -/
def State.absorb (s : State) (w : Work) : State :=
  { s with eng := w.eng, events := s.events ||| w.raised }.placeNotices w.out

/-- The grant's cost leaves the admitted load, and the emergency load if it is EMERGENCY (R89). -/
def Engine.uncount (g : Grant) (e : Engine) : Engine :=
  { e with
    load := e.load - g.cost
    emergencyLoad := if g.prio = .emergency then e.emergencyLoad - g.cost else e.emergencyLoad }

/-- The grant leaves its subscriber's grant list; a DETACHING record whose list is now empty becomes FREE (R103,
R110). -/
def Engine.leaveSub (h i : Nat) (e : Engine) : Engine :=
  match Table.get? e.subs h with
  | none => e
  | some r =>
    let l := r.grants.filter (fun j => j != i)
    if r.state = .detaching ∧ l = [] then { e with subs := Table.del e.subs h }
    else { e with subs := Table.set e.subs h { r with grants := l } }

/-- What ending at once and retirement share (R11, R24, R81): the cells the grant holds are freed, its cost leaves
the load if it is counted, its Change List entry, its place in the Admission List and in its subscriber's list go,
and its record becomes FREE. -/
def Engine.dropGrant (i : Nat) (g : Grant) (e : Engine) : Engine :=
  let e1 := if g.state.counted then e.uncount g else e
  Engine.leaveSub g.sub i
    { e1 with
      cells := e.cells.filter (fun c => c.2.grant != i)
      changes := e.changes.filter (fun x => x.id != i)
      admission := e.admission.filter (fun j => j != i)
      grants := Table.del e.grants i }

/-- The predecessor link of j is cleared after a normal end: a CHAINED grant becomes PENDING and its entry loses
the mark, keeping its wait and its place (R68, R82). -/
def Engine.clearPred (j : Option Nat) (e : Engine) : Engine :=
  match j with
  | none => e
  | some j =>
    { e with
      grants := Table.upd e.grants j
        (fun g => { g with pred := none, state := if g.state = .chained then .pending else g.state })
      changes := e.changes.map (fun x => if x.id = j then { x with mark := false } else x) }

/-- The successor link of a grant's predecessor is cleared (R24). -/
def Engine.clearSucc (p : Option Nat) (e : Engine) : Engine :=
  { e with grants := Table.upd? e.grants p (fun g => { g with succ := none }) }

/-- GRANT_ENDED for the owner. -/
def Work.sayEnded (w : Work) (g : Grant) (i : Nat) (c : EndCause) : Work := w.say g.owner (.grantEnded i c)

/-- The cascade of CHAIN_BROKEN down a chain, in chain order (R24). Each link frees one record, so the number of
records is enough fuel. -/
def Work.breakChain : Nat → Option Nat → Work → Work
  | 0, _, w => w
  | _ + 1, none, w => w
  | fuel + 1, some i, w =>
    match Table.get? w.eng.grants i with
    | none => w
    | some g =>
      Work.breakChain fuel g.succ
        (((w.onEngine (Engine.dropGrant i g)).tally).sayEnded g i .chainBroken)

/-- The cascade below a grant, with enough fuel. -/
def Work.breakBelow (j : Option Nat) (w : Work) : Work := Work.breakChain w.eng.grants.length j w

/-- A PENDING or CHAINED grant ends at once with a cause that is not RELEASED (R24). -/
def Work.endAtOnce (i : Nat) (g : Grant) (c : EndCause) (w : Work) : Work :=
  Work.breakBelow g.succ
    (((w.onEngine (fun e => (e.dropGrant i g).clearSucc g.pred)).tally).sayEnded g i c)

/-- An ACTIVE or RELEASING grant is withdrawn (R25). -/
def Work.withdraw (i : Nat) (g : Grant) (c : EndCause) (w : Work) : Work :=
  Work.breakBelow g.succ
    ((w.onEngine (fun e =>
      { e.uncount g with
        changes := e.changes.filter (fun x => x.id != i)
        grants := Table.set e.grants i { g with state := .withdrawn c, succ := none } })).tally)

/-- End grant i with a cause that breaks its chain: at once when it is off air, by withdrawal when it is on air.
A WITHDRAWN grant keeps its recorded cause, and a FREE record is passed over. -/
def Work.endGrant (c : EndCause) (w : Work) (i : Nat) : Work :=
  match Table.get? w.eng.grants i with
  | none => w
  | some g =>
    match g.state with
    | .pending | .chained => w.endAtOnce i g c
    | .active | .releasing => w.withdraw i g c
    | .withdrawn _ => w

/-- End several grants in turn. -/
def Work.endGrants (c : EndCause) (is : List Nat) (w : Work) : Work := is.foldl (Work.endGrant c) w

/-- RELEASE of a PENDING or CHAINED grant: it ends at once with no notice, and the chain around it closes up
(R24, R42). -/
def Work.releaseOffAir (i : Nat) (g : Grant) (w : Work) : Work :=
  (w.onEngine (fun e =>
    let e' := e.dropGrant i g
    if g.state = .chained then
      let up := Table.upd? e'.grants g.pred (fun x => { x with succ := g.succ })
      { e' with grants := Table.upd? up g.succ (fun x => { x with pred := g.pred }) }
    else e'.clearPred g.succ)).tally

/-- Whether the retire action places GRANT_ENDED for this cause (R81, R117). -/
def EndCause.announced : EndCause → Bool
  | .sectorLost | .sectorReset => false
  | _ => true

/-- The retire action (R81) with the handling of a successor (R82). -/
def Work.retire (i : Nat) (c : EndCause) (w : Work) : Work :=
  match Table.get? w.eng.grants i with
  | none => w
  | some g =>
    let w1 := w.onEngine (fun e =>
      let e' := e.dropGrant i g
      if c.normal then e'.clearPred g.succ else e')
    let w2 := if c.announced then w1.sayEnded g i c else w1
    if c.normal then w2 else w2.breakBelow g.succ

/-- The grant is WITHDRAWN. -/
def Engine.withdrawnGrant (e : Engine) (i : Nat) : Bool :=
  match Table.get? e.grants i with
  | some g => g.state.isWithdrawn
  | none => false

/-- The grants reached by predecessor links from a grant id, that grant first (R32, R53). -/
def chainUp (gs : Table Grant) : Nat → Option Nat → List Nat
  | 0, _ => []
  | _ + 1, none => []
  | fuel + 1, some i => i :: chainUp gs fuel ((Table.get? gs i).bind (·.pred))

/-- The grants reached by successor links from a grant id, that grant first (R92). -/
def chainDown (gs : Table Grant) : Nat → Option Nat → List Nat
  | 0, _ => []
  | _ + 1, none => []
  | fuel + 1, some i => i :: chainDown gs fuel ((Table.get? gs i).bind (·.succ))

/-! ### The Intake Arbiter (R164, R165) -/

/-- A GRANT_REQUEST whose parameters fit and whose class is enabled and names an EMERGENCY template (R165). -/
def State.emergencyRequest (s : State) (r : Request) : Bool :=
  r.kind = Kind.grantRequest.code &&
  match parseGrantRequest r.params with
  | none => false
  | some q =>
    let c := s.classes[q.cls]
    c.enabled && decide (s.templates[c.template].priority = .emergency)

/-- The lowest-numbered sector port whose Request Queue head is an emergency head. -/
def State.emergencyHead? (s : State) : Option Sector :=
  [(0 : Sector), 1, 2, 3].find? (fun n =>
    match (s.port (.sector n)).rq with
    | [] => false
    | r :: _ => s.emergencyRequest r)

/-- The first sector after the last-served one whose Request Queue is not empty, wrapping from 3 to 0. -/
def State.sectorTurn? (s : State) : Option Sector :=
  let l := s.arb.lastServed
  [l + 1, l + 2, l + 3, l].find? (fun n => !(s.port (.sector n)).rq.isEmpty)

/-- What the arbiter hands to the engine when the engine is free. -/
def State.nextItem (s : State) : Option Item :=
  if s.arb.executing.isSome then none
  else if s.arb.pendingBoundaries ≠ 0 then some .boundary
  else match s.arb.internal with
    | i :: _ => some (.internal i)
    | [] =>
      match s.emergencyHead? with
      | some n => some (.request (.sector n))
      | none =>
        if (s.port .site).rq ≠ [] then some (.request .site)
        else s.sectorTurn?.map (fun n => .request (.sector n))

/-- The last-served sector after the request of port p was chosen (R165). -/
def State.servedAfter (s : State) : PortId → Sector
  | .site => s.arb.lastServed
  | .sector n => if s.emergencyHead?.isSome then s.arb.lastServed else n

/-- The Request Queue head of p leaves the queue and executes (R152, R164). -/
def State.handOver (s : State) (p : PortId) (rest : List Request) : State :=
  { s.setPort p { s.port p with rq := rest } with
    arb := { s.arb with executing := some p, lastServed := s.servedAfter p } }

/-! ### Outcomes and counts -/

/-- The outcome of a step of this machine. -/
abbrev Out := Host.Outcome State Fault Refusal

/-- A count in one byte. A count of 256 does not fit: its byte is a free value (log 11). -/
def State.countByte (s : State) (n : Nat) : Byte × State :=
  if n < 256 then (byteOf n, s)
  else (Config.detachedCountByte s.freeIndex, { s with freeIndex := s.freeIndex + 1 })

/-! ### Internal items at a boundary -/

/-- The list in the order that a number codes: each further element is put at the place the number names. Every
order is coded by some number. -/
def arrange {α : Type} : Nat → List α → List α
  | _, [] => []
  | n, x :: xs => (arrange (n / (xs.length + 1)) xs).insertIdx (n % (xs.length + 1)) x

/-- Append the internal items of the ports declared absent at one boundary (R159, R160). An item that already waits
is not appended again (R164; log 10). The order among several is a free value (log 9). -/
def State.appendItems (s : State) (found : List InternalItem) : State :=
  let new := found.filter (fun i => !s.arb.internal.contains i)
  match new with
  | [] => s
  | [i] => { s with arb := { s.arb with internal := s.arb.internal ++ [i] } }
  | _ =>
    { s with
      arb := { s.arb with internal := s.arb.internal ++ arrange (Config.absenceOrder s.freeIndex) new }
      freeIndex := s.freeIndex + 1 }

/-! ### Stopping the timer (R146) -/

/-- The timer stops: STOPPED, missed count 0, lost mark off, no slot current, the Air Map emptied, every KEY line
deasserted. The frame counter is kept. -/
def State.stopTimer (s : State) : State :=
  { s with
    timer := { s.timer with state := .stopped, missed := 0, lostMark := false, slot := none }
    keying := ⟨emptyAirMap, 0⟩ }

/-- Drain completion (R171). -/
def State.drainComplete (s : State) : State :=
  let s' := { s with eng := { s.eng with subs := [], tagMap := [] } }.stopTimer
  { s' with op := .standby }.latch .standbyReached

end Sys2Proof.Machine
end

