-- ==== Sys2Proof/Machine/Timer.lean ====
section
/-! DEFINITION. The Frame Timer's events (R136 to R142), what every boundary does (R142) with its delivery to the
ports (R158 to R160), and the slot starts of the Keying Unit (R145). -/

namespace Sys2Proof.Machine

/-! ### Keepalive (R158 to R160) -/

/-- The window of a port (R158). -/
def ConfigItems.window (c : ConfigItems) : PortId → Nat
  | .sector _ => c.sectorKeepalive
  | .site => c.siteKeepalive

/-- PRESENT or ALERT. -/
def Health.watched : Health → Bool
  | .present | .alert => true
  | .silent | .absent => false

/-- The keepalive count after a boundary (R158). -/
def Port.counted (window : Nat) (p : Port) : Nat :=
  if p.health.watched ∧ window ≠ 0 ∧ p.keepalive < window then p.keepalive + 1 else p.keepalive

/-- The boundary declares the port absent (R158). -/
def Port.goesAbsent (window : Nat) (p : Port) : Bool :=
  p.health.watched && decide (window ≠ 0) && decide (window ≤ p.counted window) && p.txn.isNone

/-- The declaration of a port's absence (R159, R160). -/
def State.declareAbsent (s : State) (p : PortId) : State :=
  let s1 := s.flushPort p false
  (s1.setPort p { s1.port p with health := .absent, keepalive := 0, badRun := 0, goodRun := 0 }).latch (.portAbsent p)

/-- The internal item that a port's absence appends: for the site port, only when HOLD is on (R160). -/
def absenceItem (hold : Bool) : PortId → List InternalItem
  | .sector n => [.sectorDetach n]
  | .site => if hold then [.siteAbsence] else []

/-- A boundary delivered to one port. -/
def State.deliver (s : State) (p : PortId) : State :=
  let q := s.port p
  let w := s.items.window p
  if q.goesAbsent w then s.declareAbsent p else s.setPort p { q with keepalive := q.counted w }

/-- The internal items of the ports that this boundary declares absent. -/
def State.absenceItems (s : State) : List InternalItem :=
  allPorts.flatMap (fun p => if (s.port p).goesAbsent (s.items.window p) then absenceItem s.eng.hold p else [])

/-- A boundary delivered to the five ports. -/
def State.deliverAll (s : State) : State := (allPorts.foldl State.deliver s).appendItems s.absenceItems

/-! ### Boundaries (R142) -/

/-- A boundary made at a time: the frame counter moves, FMARK goes high, slot 0 starts and every KEY line is
deasserted, the arbiter counts it, and the ports count it. -/
def State.makeBoundary (s : State) (time : Nat) : State :=
  { s with
    timer := { s.timer with
      lastBoundary := time, frameCounter := s.timer.frameCounter + 1, slot := some 0, fmark := true }
    keying := { s.keying with keys := 0 }
    arb := { s.arb with pendingBoundaries := s.arb.pendingBoundaries + 1 } }.deliverAll

/-- SYNC_LOST and the lost mark, when the missed count has reached HOLDOVER_LIMIT and the mark is off (R137,
R140). -/
def State.checkLost (s : State) : State :=
  if s.items.holdoverLimit ≤ s.timer.missed ∧ s.timer.lostMark = false then
    { s with timer := { s.timer with lostMark := true } }.latch .syncLost
  else s

/-- The missed count rises by 1 and stops at 65535 (R133). -/
def State.raiseMissed (s : State) : State :=
  { s with timer := { s.timer with missed := min (s.timer.missed + 1) 65535 } }.checkLost

/-- The timer becomes LOCKED with missed count 0; SYNC_REGAINED is raised if the lost mark was on (R137, R141). -/
def State.relock (s : State) : State :=
  let s' := { s with timer := { s.timer with state := .locked, missed := 0, lostMark := false } }
  if s.timer.lostMark then s'.latch .syncRegained else s'

/-! ### Expiries and pulses: each has its effect in its timer state, and none in another (log 2) -/

/-- The period P expires in FREE_RUN (R136). -/
def State.freeRunExpiry (s : State) : State :=
  if s.timer.state = .freeRun then s.makeBoundary (s.timer.lastBoundary + s.items.framePeriod) else s

/-- The period P expires in LOCKING (R137): the missed count rises, and no boundary is made. -/
def State.lockingExpiry (s : State) : State := if s.timer.state = .locking then s.raiseMissed else s

/-- P + T passed in LOCKED (R139): a coasted boundary at P + T, HOLDOVER with missed count 1. -/
def State.lockedTimeout (s : State) : State :=
  if s.timer.state = .locked then
    let s1 := s.makeBoundary (s.timer.lastBoundary + s.items.framePeriod + s.items.syncTolerance)
    { s1 with timer := { s1.timer with state := .holdover, missed := 1 } }.checkLost
  else s

/-- The period P expires in HOLDOVER (R140). -/
def State.holdoverExpiry (s : State) : State :=
  if s.timer.state = .holdover then (s.makeBoundary (s.timer.lastBoundary + s.items.framePeriod)).raiseMissed else s

/-- A pulse in LOCKED, by its window (R138). A pulse later than P + T does not occur in LOCKED (R139; log 8). -/
def State.pulseLocked (s : State) (t : Nat) : State :=
  let p := s.items.framePeriod
  let tol := s.items.syncTolerance
  let now := s.timer.lastBoundary + t
  if 2 * t < p then s
  else if t + tol < p then
    match s.items.earlyPolicy with
    | .truncate => (s.makeBoundary now).latch .frameTruncated
    | .ignore => s
  else if t ≤ p + tol then s.makeBoundary now
  else s

/-- A pulse in HOLDOVER, by its window (R141). -/
def State.pulseHoldover (s : State) (t : Nat) : State :=
  let p := s.items.framePeriod
  let tol := s.items.syncTolerance
  let now := s.timer.lastBoundary + t
  if t ≤ tol then s.relock
  else if 2 * t < p then s
  else if t + tol < p then (s.relock.makeBoundary now).latch .frameTruncated
  else s.relock.makeBoundary now

/-- A pulse t µs after the last boundary (R133, R136 to R138, R141). -/
def State.pulse (s : State) (t : Nat) : State :=
  match s.timer.state with
  | .stopped | .freeRun => s
  | .locking => s.relock.makeBoundary (s.timer.lastBoundary + t)
  | .locked => s.pulseLocked t
  | .holdover => s.pulseHoldover t

/-- What reaches the Frame Timer has its effect. -/
def State.onTimer (s : State) : TimerEvent → State
  | .freeRunPeriodExpiry => s.freeRunExpiry
  | .lockingPeriodExpiry => s.lockingExpiry
  | .lockedSyncTimeout => s.lockedTimeout
  | .holdoverPeriodExpiry => s.holdoverExpiry
  | .fsyncPulse t => s.pulse t

/-- FREE_RUN_PERIOD_EXPIRY (R136). -/
def execFreeRunPeriodExpiry (s : State) : Out := .next s.freeRunExpiry

/-- LOCKING_PERIOD_EXPIRY (R137). -/
def execLockingPeriodExpiry (s : State) : Out := .next s.lockingExpiry

/-- LOCKED_SYNC_TIMEOUT (R139). -/
def execLockedSyncTimeout (s : State) : Out := .next s.lockedTimeout

/-- HOLDOVER_PERIOD_EXPIRY (R140). -/
def execHoldoverPeriodExpiry (s : State) : Out := .next s.holdoverExpiry

/-- FSYNC_PULSE (R138, R141). -/
def execFsyncPulse (t : Nat) (s : State) : Out := .next (s.pulse t)

/-- FMARK_PULSE_END (R142). -/
def execFmarkPulseEnd (s : State) : Out := .next { s with timer := { s.timer with fmark := false } }

/-- SLOT_START (R143, R145): the slot after the current one starts, and its keyed lines are asserted. -/
def execSlotStart (n : Nat) (s : State) : Out :=
  if 1 ≤ n ∧ n ≤ 15 ∧ s.timer.slot = some (n - 1) ∧ s.timer.state ≠ .stopped then
    .next { s with
      timer := { s.timer with slot := some n }
      keying := { s.keying with keys := keysAt s.keying.airMap n } }
  else .next s

end Sys2Proof.Machine
end

