-- ==== Sys2Proof/Machine/Serve.lean ====
section
/-! DEFINITION. The frame of every request's execution: the arbiter hands it over, what reaches the Frame Timer meanwhile
takes effect, the checks of R162 are made, its body acts, its response is placed (R152, R162, R164, R187). -/

namespace Sys2Proof.Machine

/-- The request at the head of port p's queue, when the arbiter's next item is that request and its kind code
passes the test. -/
def State.taken? (s : State) (p : PortId) (test : Byte → Bool) : Option (Request × List Request) :=
  if s.nextItem = some (.request p) then
    match (s.port p).rq with
    | r :: rest => if test r.kind then some (r, rest) else none
    | [] => none
  else none

/-- The state in which a request that was handed over acts: what reaches the timer while it executes has its effect
first, and a boundary made then waits for the request's end (R118, R164, R172; log 28). -/
def State.begun (s : State) (x : Execution) (rest : List Request) : State :=
  x.during.foldl State.onTimer (s.handOver x.port rest)

/-- One request, whole: it is handed over, its body acts, its response is placed (R152, R164). A command that
names an item the arbiter would not hand over now is no event of the part, and nothing changes, whatever it says of
the timer (log 2, log 28). -/
def serveIf (test : Byte → Bool) (body : PortId → Request → State → State × Reply) (x : Execution) (s : State) : Out :=
  match s.taken? x.port test with
  | none => .next s
  | some (r, rest) =>
    let a := body x.port r (s.begun x rest)
    .next (a.1.placeResponse x.port r.tag a.2)

/-- A sector kind: checks 2, 3 and 4 of R162, then the kind's own rules. -/
def sectorChecks {α : Type} (k : Kind) (parse : List Byte → Option α)
    (body : Sector → α → State → State × Reply) (p : PortId) (r : Request) (s : State) : State × Reply :=
  match p with
  | .site => (s, .no .notPermitted)
  | .sector n =>
    match parse r.params with
    | none => (s, .no .badParameter)
    | some a => if k.closedWhenDisabled && s.sectorDisabled n then (s, .no .sectorDisabled) else body n a s

/-- A site kind: checks 2 and 3 of R162, then the kind's own rules. -/
def siteChecks {α : Type} (parse : List Byte → Option α) (body : α → State → State × Reply)
    (p : PortId) (r : Request) (s : State) : State × Reply :=
  match p with
  | .sector _ => (s, .no .notPermitted)
  | .site =>
    match parse r.params with
    | none => (s, .no .badParameter)
    | some a => body a s

/-- A kind permitted on every port: check 3 of R162, then the kind's own rules. -/
def anyChecks {α : Type} (parse : PortId → List Byte → Option α) (body : PortId → α → State → State × Reply)
    (p : PortId) (r : Request) (s : State) : State × Reply :=
  match parse p r.params with
  | none => (s, .no .badParameter)
  | some a => body p a s

/-- The execution of a request of a sector kind. -/
def serveSector {α : Type} (k : Kind) (parse : List Byte → Option α)
    (body : Sector → α → State → State × Reply) (x : Execution) (s : State) : Out :=
  serveIf (fun c => c == k.code) (sectorChecks k parse body) x s

/-- The execution of a request of a site kind. -/
def serveSite {α : Type} (k : Kind) (parse : List Byte → Option α) (body : α → State → State × Reply)
    (x : Execution) (s : State) : Out :=
  serveIf (fun c => c == k.code) (siteChecks parse body) x s

/-- The execution of a request of a kind permitted on every port. -/
def serveAny {α : Type} (k : Kind) (parse : PortId → List Byte → Option α)
    (body : PortId → α → State → State × Reply) (x : Execution) (s : State) : Out :=
  serveIf (fun c => c == k.code) (anyChecks parse body) x s

end Sys2Proof.Machine
end

