-- ==== Sys2Proof/Machine/Boundary.lean ====
section
/-! DEFINITION. The processing of a frame boundary (R73 to R84), HOLD and UNHOLD (R69, R70) and the internal item
of the site port's absence (R71). -/

namespace Sys2Proof.Machine

/-! ### Stage A (R74, R75) -/

/-- Whether a grant is ACTIVE or RELEASING. -/
def Engine.keyedGrant (e : Engine) (i : Nat) : Bool :=
  match Table.get? e.grants i with
  | some g => g.state.keyed
  | none => false

/-- A PERSISTENT grant whose count reached 0 ends its round (R75). -/
def Work.endRound (i : Nat) (g : Grant) (w : Work) : Work :=
  if g.renewRequired ∧ ¬ g.renewed then w.retire i .notRenewed
  else if g.stale then w.retire i .rangeChanged
  else
    let w' := w.onEngine (fun e =>
      { e with grants := Table.upd e.grants i (fun x => { x with remaining := x.roundLength, renewed := false }) })
    if g.roundNotice then w'.say g.owner (.roundEnd i) else w'

/-- One grant is counted down (R74). -/
def Work.countDown (w : Work) (i : Nat) : Work :=
  match Table.get? w.eng.grants i with
  | none => w
  | some g =>
    if 1 < g.remaining then
      w.onEngine (fun e =>
        { e with grants := Table.upd e.grants i (fun x => { x with remaining := x.remaining - 1 }) })
    else
      match g.mode with
      | .oneShot => w.retire i .expired
      | .persistent => w.endRound i g

/-- Stage A: the grants that are ACTIVE or RELEASING when the stage begins, in Admission List order. -/
def Work.stageA (w : Work) : Work := (w.eng.admission.filter w.eng.keyedGrant).foldl Work.countDown w

/-! ### Stage B (R76) -/

/-- A WITHDRAWN grant retires with its recorded end cause. -/
def Work.retireWithdrawn (w : Work) (i : Nat) : Work :=
  match Table.get? w.eng.grants i with
  | none => w
  | some g =>
    match g.state with
    | .withdrawn c => w.retire i c
    | .pending | .chained | .active | .releasing => w

/-- Stage B: every WITHDRAWN grant, in Admission List order. -/
def Work.stageB (w : Work) : Work := (w.eng.admission.filter w.eng.withdrawnGrant).foldl Work.retireWithdrawn w

/-! ### Stage C (R77 to R80) -/

/-- The regime of Stage C (R77). -/
inductive Regime where
  | flushing | normal | frozen
  deriving DecidableEq, Repr

/-- Flush on; flush off and HOLD off; flush off and HOLD on. -/
def Engine.regime (e : Engine) : Regime :=
  if e.flush then .flushing else if e.hold then .frozen else .normal

/-- The entry of an EMERGENCY grant. -/
def Engine.emergencyEntry (e : Engine) (x : Entry) : Bool :=
  match Table.get? e.grants x.id with
  | some g => decide (g.prio = .emergency)
  | none => false

/-- The waits are reduced by one, to a floor of 0; under HOLD those of EMERGENCY grants alone (R77). -/
def Engine.adjustWaits (r : Regime) (e : Engine) : Engine :=
  { e with changes := e.changes.map (fun x =>
      if r = .frozen ∧ e.emergencyEntry x = false then x else { x with wait := x.wait - 1 }) }

/-- Whether an entry is eligible (R77). -/
def Engine.eligible (r : Regime) (e : Engine) (x : Entry) : Bool :=
  !x.mark &&
  match r with
  | .flushing => true
  | .normal => decide (x.wait = 0)
  | .frozen => decide (x.wait = 0) && e.emergencyEntry x

/-- Applying an ACTIVATE entry (R79) or a RETIRE entry (R80); the entry leaves the list. `frame` is the frame
counter value of the boundary. -/
def Work.applyEntry (frame : Half) (x : Entry) (w : Work) : Work :=
  let w1 := w.onEngine (fun e => { e with changes := e.changes.filter (fun y => y.id != x.id) })
  match x.kind with
  | .retire => w1.retire x.id .released
  | .activate =>
    match Table.get? w.eng.grants x.id with
    | none => w1
    | some g =>
      (w1.onEngine (fun e =>
        { e with grants := Table.upd e.grants x.id (fun y => { y with state := .active }) })).say
        g.owner (.grantActive x.id frame)

/-- The application loop (R78): the first eligible entry in list order, then again from the head. Each application
removes an entry, so the length of the list is enough fuel. -/
def Work.applyLoop (r : Regime) (frame : Half) : Nat → Work → Work
  | 0, w => w
  | fuel + 1, w =>
    match w.eng.changes.find? (w.eng.eligible r) with
    | none => w
    | some x => Work.applyLoop r frame fuel (w.applyEntry frame x)

/-- Stage C; flush is off at its end (R77). -/
def Work.stageC (frame : Half) (w : Work) : Work :=
  let r := w.eng.regime
  let w1 := w.onEngine (Engine.adjustWaits r)
  (Work.applyLoop r frame w1.eng.changes.length w1).onEngine (fun e => { e with flush := false })

/-! ### Stage D (R83, R84) -/

/-- The keyed slots of a carrier: the body slots of its ACTIVE and RELEASING downlink grants (R83). -/
def Engine.keyedSlots (e : Engine) (c : Carrier) : SlotSet :=
  e.grants.foldl (fun acc x =>
    if x.2.state.keyed ∧ x.2.dir = .dl ∧ x.2.carrier = c then acc ||| slotRun x.2.first x.2.k else acc) 0

/-- The Air Map of the frame that the boundary opens (R83). -/
def Engine.airMap (e : Engine) : Vector SlotSet 8 :=
  #v[e.keyedSlots 0, e.keyedSlots 1, e.keyedSlots 2, e.keyedSlots 3,
     e.keyedSlots 4, e.keyedSlots 5, e.keyedSlots 6, e.keyedSlots 7]

/-- Stages A, B and C. -/
def Work.stages (frame : Half) (w : Work) : Work := ((w.stageA).stageB).stageC frame

/-- The frame counter value of the boundary being processed: as many below the counter as boundaries made after it
are pending (R73, R79, R142). -/
def State.boundaryFrame (s : State) : Half := s.timer.frameCounter - BitVec.ofNat 16 s.arb.pendingBoundaries

/-- The processing of one boundary, whole (R73), with the drain report at the end of Stage D in DRAINING when no
grant record is in use (R84). -/
def State.processBoundary (s : State) : State :=
  let w := (Work.of s.eng).stages s.boundaryFrame
  let s1 := s.absorb w
  let s2 := { s1 with keying := { s1.keying with airMap := s1.eng.airMap } }
  if s2.op = .draining ∧ s2.eng.grants = [] then s2.drainComplete else s2

/-- BOUNDARY_PROCESSING (R73, R164): the pending count falls by 1. Nothing happens when the arbiter would not hand a
boundary over now (log 2). -/
def execBoundaryProcessing (s : State) : Out :=
  if s.nextItem = some .boundary then
    .next { s with arb := { s.arb with pendingBoundaries := s.arb.pendingBoundaries - 1 } }.processBoundary
  else .next s

/-! ### HOLD and flush (R69 to R71) -/

/-- HOLD on, flush off, in RUNNING; no change when HOLD is on already (R69). -/
def holdBody (_ : Unit) (s : State) : State × Reply :=
  if s.op ≠ .running then (s, .no .notRunning)
  else if s.eng.hold then (s, .ok [])
  else ({ s with eng := { s.eng with hold := true, flush := false } }, .ok [])

/-- HOLD (R69). -/
def execHold (x : Execution) (s : State) : Out := serveSite .hold parseNone holdBody x s

/-- HOLD off and flush on, when HOLD is on (R70, R71). -/
def Engine.unhold (e : Engine) : Engine := if e.hold then { e with hold := false, flush := true } else e

/-- R70. -/
def unholdBody (_ : Unit) (s : State) : State × Reply := ({ s with eng := s.eng.unhold }, .ok [])

/-- UNHOLD (R70). -/
def execUnhold (x : Execution) (s : State) : Out := serveSite .unhold parseNone unholdBody x s

/-- SITE_ABSENCE_ITEM (R71, R166): the oldest internal item leaves the list and acts as UNHOLD does; it places no
response and no notice. -/
def execSiteAbsenceItem (s : State) : Out :=
  if s.nextItem = some (.internal .siteAbsence) then
    .next { s with arb := { s.arb with internal := s.arb.internal.tail }, eng := s.eng.unhold }
  else .next s

end Sys2Proof.Machine
end

