-- ==== Sys2Proof/Machine/Classes.lean ====
section
/-! DEFINITION. The Class Map's and the Template Table's requests: CLASS_WRITE (R121), TEMPLATE_WRITE (R124) and
TEMPLATE_READ (R125). -/

namespace Sys2Proof.Machine

/-- The service classes in ascending order. -/
def allClasses : List (Fin 16) := [0, 1, 2, 3, 4, 5, 6, 7, 8, 9, 10, 11, 12, 13, 14, 15]

/-- The classes whose entry names the template, ascending (R125). -/
def State.naming (s : State) (t : Fin 24) : List (Fin 16) :=
  allClasses.filter (fun c => decide (s.classes[c].template = t))

/-- The enabled ones among them. -/
def State.enabledNaming (s : State) (t : Fin 24) : List (Fin 16) :=
  (s.naming t).filter (fun c => s.classes[c].enabled)

/-- A class set as two bytes, bit c for class c (R183). -/
def classSetBytes (cs : List (Fin 16)) : List Byte :=
  halfBytes (cs.foldl (fun acc c => acc ||| BitVec.ofNat 16 (2 ^ c.val)) (0 : Half)).toNat

/-- R121. -/
def classWriteBody (q : Fin 16 × Fin 24 × Bool) (s : State) : State × Reply :=
  let c := s.classes[q.1]
  if c.enabled ∧ c.template ≠ q.2.1 then (s, ⟨.classEnabled, [byteOf c.template.val]⟩)
  else
    ({ s with classes := s.classes.set q.1.val ⟨q.2.1, q.2.2⟩ },
      .ok [byteOf q.2.1.val, yesNoByte q.2.2])

/-- CLASS_WRITE (R121). -/
def execClassWrite (x : Execution) (s : State) : Out := serveSite .classWrite parseClassWrite classWriteBody x s

/-- R124: the range check is made on the parameters, then the in-use check. -/
def templateWriteBody (q : Fin 24 × Template) (s : State) : State × Reply :=
  match s.enabledNaming q.1 with
  | c :: _ => (s, ⟨.templateInUse, [byteOf c.val]⟩)
  | [] => ({ s with templates := s.templates.set q.1.val q.2 }, .ok [])

/-- TEMPLATE_WRITE (R124). -/
def execTemplateWrite (x : Execution) (s : State) : Out :=
  serveSite .templateWrite parseTemplateWrite templateWriteBody x s

/-- R125. -/
def templateReadBody (t : Fin 24) (s : State) : State × Reply :=
  (s, .ok ([byteOf t.val] ++ s.templates[t].bytes ++ classSetBytes (s.naming t) ++
    classSetBytes (s.enabledNaming t)))

/-- TEMPLATE_READ (R125). -/
def execTemplateRead (x : Execution) (s : State) : Out :=
  serveSite .templateRead parseTemplateIndex templateReadBody x s

end Sys2Proof.Machine
end

