-- ==== Sys2Proof/Machine/Load.lean ====
section
/-! DEFINITION. The Load Account: candidates and shedding passes (R92 to R96), SET_CEILING (R97), LOAD_QUERY
(R98). -/

namespace Sys2Proof.Machine

/-- An EMERGENCY grant is reached by successor links (R92). -/
def Engine.aheadOfEmergency (e : Engine) (g : Grant) : Bool :=
  (chainDown e.grants e.grants.length g.succ).any (fun j =>
    match Table.get? e.grants j with
    | some x => decide (x.prio = .emergency)
    | none => false)

/-- A shedding candidate (R92). -/
def Engine.isCandidate (e : Engine) (i : Nat) : Bool :=
  match Table.get? e.grants i with
  | none => false
  | some g => g.state.counted && decide (g.prio ≠ .emergency) && !e.aheadOfEmergency g

/-- A candidate of a priority. -/
def Engine.isCandidateOf (e : Engine) (p : Priority) (i : Nat) : Bool :=
  e.isCandidate i &&
  match Table.get? e.grants i with
  | none => false
  | some g => decide (g.prio = p)

/-- The newest candidate of a priority: the one nearest the tail of the Admission List. -/
def Engine.newestOf (e : Engine) (p : Priority) : Option Nat := e.admission.reverse.find? (e.isCandidateOf p)

/-- The next victim: the lowest priority present among the candidates, and the newest within it (R93). -/
def Engine.nextShed (e : Engine) : Option Nat :=
  match e.newestOf .background with
  | some i => some i
  | none =>
    match e.newestOf .standard with
    | some i => some i
    | none => e.newestOf .priority

/-- Whether a candidate is counted. -/
def Engine.hasCandidate (e : Engine) : Bool := e.nextShed.isSome

/-- Steps 1 to 4 of R93. Each victim stops being a candidate, so the number of records is enough fuel. -/
def Work.shedLoop : Nat → Work → Work
  | 0, w => w
  | fuel + 1, w =>
    if w.eng.load ≤ w.eng.ceiling then w
    else
      match w.eng.nextShed with
      | none => w
      | some i => Work.shedLoop fuel (w.endGrant .shed i)

/-- A shedding pass with the events it raises (R93, R96); none begins when the load is at or under the ceiling. -/
def Work.shedPass (w : Work) : Work :=
  if w.eng.load ≤ w.eng.ceiling then w
  else
    let w1 := Work.shedLoop (w.eng.grants.length + 1) w
    let w2 := if w.ended < w1.ended then w1.raise .budgetShed else w1
    if w1.eng.ceiling < w1.eng.load then w2.raise .emergencyOverCeiling else w2

/-- The pass at the end of an item after which the load is above the ceiling while a candidate is counted (R95). -/
def Work.lateShed (w : Work) : Work := if w.eng.hasCandidate then w.shedPass else w

/-- The end of an item that ended grants: the late pass, and the number of grants the request reports as ended or
withdrawn. Whether that number includes the grants of a late pass is a free value (log 24). -/
def State.closeWithShed (s : State) (w : Work) : Nat × State :=
  let w' := w.lateShed
  if w'.ended = w.ended then (w.ended, s.absorb w')
  else
    (if Config.countsLateShed s.freeIndex then w'.ended else w.ended,
      { s with freeIndex := s.freeIndex + 1 }.absorb w')

/-- The pass of SET_CEILING. When the request names the ceiling in force, the load is above it and no candidate is
counted, R97 says that nothing changes and R96 that EMERGENCY_OVER_CEILING is raised: a free value decides
(log 12). -/
def State.ceilingPass (s : State) (c : Nat) : State × Work :=
  let w := Work.of { s.eng with ceiling := c }
  if c = s.eng.ceiling ∧ c < s.eng.load ∧ s.eng.hasCandidate = false then
    ({ s with freeIndex := s.freeIndex + 1 },
      if Config.sameCeilingLatches s.freeIndex then w.raise .emergencyOverCeiling else w)
  else (s, w.shedPass)

/-- R97. -/
def setCeilingBody (c : Nat) (s : State) : State × Reply :=
  let r := s.ceilingPass c
  (r.1.absorb r.2, .ok (halfBytes r.2.eng.load ++ [byteOf r.2.ended]))

/-- SET_CEILING (R97). -/
def execSetCeiling (x : Execution) (s : State) : Out := serveSite .setCeiling parseCeiling setCeilingBody x s

/-- R98. -/
def loadQueryBody (_ : Unit) (s : State) : State × Reply :=
  (s, .ok (halfBytes s.eng.ceiling ++ halfBytes s.eng.load ++ halfBytes s.eng.emergencyLoad))

/-- LOAD_QUERY (R98). -/
def execLoadQuery (x : Execution) (s : State) : Out := serveSite .loadQuery parseNone loadQueryBody x s

end Sys2Proof.Machine
end

