-- ==== Sys2Proof/Machine/Search.lean ====
section
/-! DEFINITION. The Resource Grid's coordinates (R1 to R5) and the Placement Search (R47 to R56). -/

namespace Sys2Proof.Machine

/-! ### Tiles and cells -/

/-- The number of a tile. -/
def tileKey (d : Direction) (c : Carrier) (slot : Nat) : Nat := (d.code * 8 + c.val) * 16 + slot

/-- The number of a cell. -/
def cellKey (d : Direction) (c : Carrier) (slot : Nat) (n : Sector) : Nat := tileKey d c slot * 4 + n.val

/-- The slots first to first + len - 1. -/
def slotsOf (first len : Nat) : List Nat := (List.range len).map (fun i => first + i)

/-- The tile's blocked flag (R13). -/
def Engine.isBlocked (e : Engine) (d : Direction) (c : Carrier) (slot : Nat) : Bool :=
  Table.has e.blocked (tileKey d c slot)

/-- The holder of a cell, none when it is free (R2). -/
def Engine.holder (e : Engine) (d : Direction) (c : Carrier) (slot : Nat) (n : Sector) : Option Holder :=
  Table.get? e.cells (cellKey d c slot n)

/-! ### Exclusion sets and adjacency (R5, R6) -/

def Adjacency.adjacent (a : Adjacency) (m n : Sector) : Bool :=
  match m, n with
  | 0, 1 => a.a01 | 1, 0 => a.a01
  | 0, 2 => a.a02 | 2, 0 => a.a02
  | 0, 3 => a.a03 | 3, 0 => a.a03
  | 1, 2 => a.a12 | 2, 1 => a.a12
  | 1, 3 => a.a13 | 3, 1 => a.a13
  | 2, 3 => a.a23 | 3, 2 => a.a23
  | _, _ => false

/-- Set a pair of distinct sectors, in both directions (R6). -/
def Adjacency.setPair (a : Adjacency) (m n : Sector) (v : Bool) : Adjacency :=
  match m, n with
  | 0, 1 => { a with a01 := v } | 1, 0 => { a with a01 := v }
  | 0, 2 => { a with a02 := v } | 2, 0 => { a with a02 := v }
  | 0, 3 => { a with a03 := v } | 3, 0 => { a with a03 := v }
  | 1, 2 => { a with a12 := v } | 2, 1 => { a with a12 := v }
  | 1, 3 => { a with a13 := v } | 3, 1 => { a with a13 := v }
  | 2, 3 => { a with a23 := v } | 3, 2 => { a with a23 := v }
  | _, _ => a

/-- The set of the sectors that satisfy a test. -/
def sectorSetOf (f : Sector → Bool) : SectorSet :=
  [(0 : Sector), 1, 2, 3].foldl (fun acc n => if f n then acc ||| BitVec.ofNat 4 (2 ^ n.val) else acc) 0

/-- The sectors adjacent to m (R6, R176). -/
def Adjacency.neighbours (a : Adjacency) (m : Sector) : SectorSet := sectorSetOf (fun n => a.adjacent m n)

/-- At or above EDGE_THRESHOLD (R5). -/
def ConfigItems.isEdge (c : ConfigItems) (r : RangeClass) : Bool := decide (c.edgeThreshold ≤ r.val)

/-- The exclusion set of a new grant (R5). -/
def ConfigItems.exclusion (c : ConfigItems) (r : RangeClass) (owner : Sector) : SectorSet :=
  if c.isEdge r then
    sectorSetOf (fun n => n == owner || (c.adjacency.adjacent owner n && c.sectorsEnabled.getLsbD n.val))
  else sectorSetOf (fun n => n == owner)

/-! ### The search (R47 to R56) -/

/-- What the engine hands to the search (R47), with PRIORITY_PREEMPT as it stands. -/
structure Query where
  dir : Direction
  k : Nat
  g : Nat
  excl : SectorSet
  carriers : CarrierSet
  prio : Priority
  prot : List Nat
  preemptOn : Bool
  deriving DecidableEq, Repr

/-- A carrier and a first slot. -/
structure Spot where
  carrier : Carrier
  first : Nat
  deriving DecidableEq, Repr

/-- The candidates in search order: carriers ascending, then first slots 1 to 16 - k - g (R48). -/
def Query.spots (q : Query) : List Spot :=
  (carriersOf q.carriers).flatMap (fun c => (slotsOf 1 (16 - q.k - q.g)).map (fun f => ⟨c, f⟩))

/-- The cells of a candidate's footprint as slot and sector (R48). -/
def footprint (first len : Nat) (x : SectorSet) : List (Nat × Sector) :=
  (slotsOf first len).flatMap (fun slot => (sectorsOf x).map (fun n => (slot, n)))

/-- No tile of the span is blocked (R49). -/
def Query.open (q : Query) (e : Engine) (s : Spot) : Bool :=
  (slotsOf s.first (q.k + q.g)).all (fun slot => !e.isBlocked q.dir s.carrier slot)

/-- The grants that hold a cell of the footprint, one entry a held cell. -/
def Query.holders (q : Query) (e : Engine) (s : Spot) : List Nat :=
  (footprint s.first (q.k + q.g) q.excl).filterMap (fun x => (e.holder q.dir s.carrier x.1 x.2).map (·.grant))

/-- Every cell of the footprint is free or held by a WITHDRAWN grant, and no tile is blocked (R49, R50). -/
def Query.freeFit (q : Query) (e : Engine) (s : Spot) : Bool :=
  q.open e s && (q.holders e s).all e.withdrawnGrant

/-- The table of R52. -/
def mayPreempt (requester : Priority) (preemptOn : Bool) (holder : Priority) : Bool :=
  match requester, holder with
  | .emergency, .background | .emergency, .standard | .emergency, .priority => true
  | .priority, .background => preemptOn
  | _, _ => false

/-- The requester is allowed to preempt some holder (R52). -/
def Query.mayPreemptAny (q : Query) : Bool := mayPreempt q.prio q.preemptOn .background

/-- A holder that the requester may preempt and that is not protected (R52, R53). -/
def Query.preemptible (q : Query) (e : Engine) (i : Nat) : Bool :=
  match Table.get? e.grants i with
  | some g => mayPreempt q.prio q.preemptOn g.prio && !q.prot.contains i
  | none => false

/-- The candidate qualifies for preempt fit (R54). -/
def Query.qualifies (q : Query) (e : Engine) (s : Spot) : Bool :=
  q.open e s && (q.holders e s).all (fun i => e.withdrawnGrant i || q.preemptible e i)

/-- The distinct grants, not WITHDRAWN, that hold a cell of the footprint, in Admission List order (R54). -/
def Query.victims (q : Query) (e : Engine) (s : Spot) : List Nat :=
  e.admission.filter (fun i => (q.holders e s).contains i && !e.withdrawnGrant i)

/-- Of two candidates in search order, the later one only when it has fewer victims (R55). -/
def fewer (best : Option (Spot × List Nat)) (x : Spot × List Nat) : Option (Spot × List Nat) :=
  match best with
  | none => some x
  | some b => if x.2.length < b.2.length then some x else some b

/-- The qualifying candidate with the fewest victims, the first in search order among equals (R55). -/
def Query.preemptFit (q : Query) (e : Engine) : Option (Spot × List Nat) :=
  ((q.spots.filter (q.qualifies e)).map (fun s => (s, q.victims e s))).foldl fewer none

/-- The result of the search: a placement with its victims, or no fit (R51, R54, R56). -/
def Query.search (q : Query) (e : Engine) : Option (Spot × List Nat) :=
  match q.spots.find? (q.freeFit e) with
  | some s => some (s, [])
  | none => if q.mayPreemptAny then q.preemptFit e else none

end Sys2Proof.Machine
end

