-- ==== Sys2Proof/Machine/Grid.lean ====
section
/-! DEFINITION. The requests on the Resource Grid: BLOCK_TILES (R14 to R17) and SCHEDULE_QUERY (R18). -/

namespace Sys2Proof.Machine

/-- The named tiles' slots. -/
def BlockReq.slots (q : BlockReq) : List Nat := slotsOf q.first q.count

/-- How many named tiles have their flag in the state `v`. -/
def Engine.countFlags (e : Engine) (q : BlockReq) (v : Bool) : Nat :=
  (q.slots.filter (fun slot => e.isBlocked q.dir q.carrier slot == v)).length

/-- Set every named flag. -/
def Engine.setFlags (e : Engine) (q : BlockReq) : Engine :=
  { e with blocked := q.slots.foldl (fun t slot => Table.set t (tileKey q.dir q.carrier slot) ()) e.blocked }

/-- Clear every named flag. -/
def Engine.clearFlags (e : Engine) (q : BlockReq) : Engine :=
  { e with blocked := q.slots.foldl (fun t slot => Table.del t (tileKey q.dir q.carrier slot)) e.blocked }

/-- The holders of the named tiles' cells, slots ascending and, within a slot, sectors ascending (R15). -/
def Engine.namedHolders (e : Engine) (q : BlockReq) : List Nat :=
  (footprint q.first q.count 0xF#4).filterMap (fun x => (e.holder q.dir q.carrier x.1 x.2).map (·.grant))

/-- The victims of FORCE: every grant not WITHDRAWN that holds a named cell, in Admission List order (R16). -/
def Engine.blockVictims (e : Engine) (q : BlockReq) : List Nat :=
  e.admission.filter (fun i => (e.namedHolders q).contains i && !e.withdrawnGrant i)

/-- R14 to R17. -/
def blockBody (q : BlockReq) (s : State) : State × Reply :=
  if q.on then
    let changed := byteOf (s.eng.countFlags q false)
    match q.mode with
    | .gentle =>
      match (s.eng.namedHolders q).find? (fun i => !s.eng.withdrawnGrant i) with
      | some i => (s, ⟨.tileInUse, [byteOf i]⟩)
      | none => (s.absorb (Work.of (s.eng.setFlags q)), .ok [changed, 0])
    | .force =>
      let w := (Work.of (s.eng.setFlags q)).endGrants .blocked (s.eng.blockVictims q)
      let a := s.closeWithShed w
      (a.2, .ok [changed, byteOf a.1])
  else
    (s.absorb (Work.of (s.eng.clearFlags q)), .ok [byteOf (s.eng.countFlags q true), 0])

/-- BLOCK_TILES (R14 to R17). -/
def execBlockTiles (x : Execution) (s : State) : Out := serveSite .blockTiles parseBlock blockBody x s

/-- A slot byte of the schedule layout: holder, 7Fh when free; bit 7 set for GUARD (R183, 11.3). -/
def slotByte : Option Holder → Byte
  | none => 0x7F
  | some h => byteOf h.grant ||| bitAt 7 (h.role = .guard)

/-- The blocked slots of a carrier, bit s for slot s. -/
def Engine.blockedSlots (e : Engine) (d : Direction) (c : Carrier) : SlotSet :=
  (slotsOf 1 15).foldl (fun acc slot => if e.isBlocked d c slot then acc ||| BitVec.ofNat 16 (2 ^ slot) else acc) 0

/-- The schedule layout, 22 bytes (R18). -/
def schedulePayload (e : Engine) (frame : Half) (d : Direction) (c : Carrier) (n : Sector) : List Byte :=
  [byteOf n.val, byteOf d.code, byteOf c.val] ++ halfBytes frame.toNat ++
  (slotsOf 1 15).map (fun slot => slotByte (e.holder d c slot n)) ++
  halfBytes (e.blockedSlots d c).toNat

/-- R18. -/
def scheduleBody (_ : PortId) (q : Direction × Carrier × Sector) (s : State) : State × Reply :=
  (s, .ok (schedulePayload s.eng s.timer.frameCounter q.1 q.2.1 q.2.2))

/-- SCHEDULE_QUERY (R18). -/
def execScheduleQuery (x : Execution) (s : State) : Out := serveAny .scheduleQuery parseSchedule scheduleBody x s

end Sys2Proof.Machine
end

