-- ==== Sys2Proof/Machine/Grants.lean ====
section
/-! DEFINITION. The requests on grants: GRANT_REQUEST (R27 to R39, R126 to R130), RENEW, RELEASE, GRANT_QUERY and
FORCE_RELEASE (R40 to R45). -/

namespace Sys2Proof.Machine

/-! ### The admission checks (R27) -/

/-- Step 1 (R28). -/
def step1 (n : Sector) (s : State) : Except Cause Unit :=
  if s.op ≠ .running then .error .notRunning
  else if s.sectorDisabled n then .error .sectorDisabled
  else .ok ()

/-- ATTACHED or SUSPECT, and homed in sector n (R29, R109, R111). -/
def Subscriber.servedIn (r : Subscriber) (n : Sector) : Bool :=
  decide (r.state ≠ .detaching) && decide (r.home = n)

/-- A subscriber record that requests from sector port n may name. -/
def Engine.subscriberIn (e : Engine) (n : Sector) (h : Nat) : Option Subscriber :=
  match Table.get? e.subs h with
  | some r => if r.servedIn n then some r else none
  | none => none

/-- Step 2 (R29). -/
def step2 (n : Sector) (h : Nat) (s : State) : Except Cause Subscriber :=
  match s.eng.subscriberIn n h with
  | some r => .ok r
  | none => .error .unknownSubscriber

/-- Step 3: the template of an enabled class (R30). -/
def step3 (c : Fin 16) (s : State) : Except Cause Template :=
  if s.classes[c].enabled then .ok s.templates[s.classes[c].template] else .error .classDisabled

/-- A template's direction allowed accepts a direction (R30). -/
def DirectionAllowed.accepts : DirectionAllowed → Direction → Bool
  | .either, _ => true
  | .dl, .dl => true
  | .ul, .ul => true
  | _, _ => false

/-- Step 4 (R30). -/
def step4 (t : Template) (d : Direction) : Except Cause Unit :=
  if t.direction.accepts d then .ok () else .error .directionNotAllowed

/-- Step 5 (R29). -/
def step5 (r : Subscriber) (t : Template) : Except Cause Unit :=
  if r.state = .suspect ∧ t.priority ≠ .emergency then .error .suspect else .ok ()

/-- The subscriber's grants that are neither FREE nor WITHDRAWN, oldest first (R31). -/
def Engine.countedOf (e : Engine) (r : Subscriber) : List Nat :=
  r.grants.filter (fun i =>
    match Table.get? e.grants i with
    | some g => g.state.counted
    | none => false)

/-- The named predecessor and every grant reached from it by predecessor links (R31, R34, R53). -/
def Engine.protectedBy (e : Engine) (pred : Option Nat) : List Nat := chainUp e.grants e.grants.length pred

/-- The limit victim: the newest counted grant that is not EMERGENCY, passing over the protected ones (R31). -/
def Engine.limitVictim (e : Engine) (r : Subscriber) (pred : Option Nat) : Option Nat :=
  (e.countedOf r).reverse.find? (fun i =>
    !(e.protectedBy pred).contains i &&
    match Table.get? e.grants i with
    | some g => decide (g.prio ≠ .emergency)
    | none => false)

/-- Step 6 (R31): the limit victim, if one is needed. -/
def step6 (e : Engine) (r : Subscriber) (t : Template) (pred : Option Nat) : Except Cause (Option Nat) :=
  if (e.countedOf r).length < 4 then .ok none
  else if t.priority ≠ .emergency then .error .grantLimit
  else
    match e.limitVictim r pred with
    | some i => .ok (some i)
    | none => .error .grantLimit

/-- A grant that may be named as predecessor by subscriber h (R32). -/
def Grant.mayPrecede (g : Grant) (h : Nat) : Bool :=
  decide (g.sub = h) && decide (g.mode = .oneShot) &&
  decide (g.state = .pending ∨ g.state = .chained ∨ g.state = .active) && g.succ.isNone

/-- Step 7 (R32). -/
def step7 (e : Engine) (h : Nat) (pred : Option Nat) : Except Cause Unit :=
  match pred with
  | none => .ok ()
  | some i =>
    match Table.get? e.grants i with
    | none => .error .chainInvalid
    | some g =>
      if !g.mayPrecede h then .error .chainInvalid
      else if 4 < 1 + (e.protectedBy pred).length then .error .chainTooLong
      else .ok ()

/-- Demand normalisation (R129). -/
def normalise (d cap : Nat) (r : Rounding) : Nat :=
  let q := d / cap
  let m := d % cap
  let k := match r with
    | .ceil => if m = 0 then q else q + 1
    | .nearest => if cap ≤ 2 * m then q + 1 else q
  if k = 0 then 1 else k

/-- Step 8 (R33, R130). -/
def step8 (c : ConfigItems) (q : GrantReq) (r : Subscriber) (t : Template) : Except Cause Nat :=
  let k := normalise q.demand c.capacityTable[r.range] t.rounding
  if t.maxSlots < k then .error .demandTooLarge else .ok k

/-- Step 9: the guard count (R4, R33). -/
def guardCount (c : ConfigItems) (d : Direction) (r : RangeClass) : Nat :=
  match d with
  | .dl => 0
  | .ul => c.guardTable[r]

/-- The cost of a grant (R35, R88). -/
def costOf (c : ConfigItems) (d : Direction) (k : Nat) (carrier : Carrier) (r : RangeClass) : Nat :=
  match d with
  | .dl => k * c.carrierWeight[carrier] * c.rangeFactor[r]
  | .ul => 0

/-- The costs of the victims that are counted in the load (R35). -/
def Engine.costsOf (e : Engine) (is : List Nat) : Nat :=
  (is.map (fun i =>
    match Table.get? e.grants i with
    | some g => if g.state.counted then g.cost else 0
    | none => 0)).sum

/-- What steps 1 to 11a settle. -/
structure Plan where
  id : Nat
  tmpl : Template
  range : RangeClass
  k : Nat
  g : Nat
  excl : SectorSet
  spot : Spot
  victims : List Nat
  limitVictim : Option Nat
  cost : Nat
  deriving DecidableEq, Repr

/-- Step 10 (R34). -/
def step10 (s : State) (q : GrantReq) (t : Template) (k g : Nat) (x : SectorSet) : Except Cause (Spot × List Nat) :=
  let query : Query :=
    { dir := q.dir, k := k, g := g, excl := x, carriers := t.carriers &&& s.items.carriersEnabled,
      prio := t.priority, prot := s.eng.protectedBy q.pred, preemptOn := s.items.priorityPreempt }
  match query.search s.eng with
  | some r => .ok r
  | none => .error .noPlacement

/-- Step 11 (R35, R90, R91). -/
def step11 (e : Engine) (t : Template) (victims : List Nat) (cost : Nat) : Except Cause Unit :=
  if t.priority = .emergency then .ok ()
  else if e.load - e.costsOf victims + cost ≤ e.ceiling then .ok ()
  else .error .overBudget

/-- Step 11a (R36). -/
def step11a (e : Engine) : Except Cause Nat :=
  match Table.firstFree? e.grants 96 with
  | some i => .ok i
  | none => .error .tableFull

/-- The checks of R27 in their order. -/
def planGrant (n : Sector) (q : GrantReq) (s : State) : Except Cause Plan := do
  step1 n s
  let r ← step2 n q.handle s
  let t ← step3 q.cls s
  step4 t q.dir
  step5 r t
  let limit ← step6 s.eng r t q.pred
  step7 s.eng q.handle q.pred
  let k ← step8 s.items q r t
  let g := guardCount s.items q.dir r.range
  let x := s.items.exclusion r.range n
  let found ← step10 s q t k g x
  let cost := costOf s.items q.dir k found.1.carrier r.range
  step11 s.eng t found.2 cost
  let i ← step11a s.eng
  pure ⟨i, t, r.range, k, g, x, found.1, found.2, limit, cost⟩

/-! ### The commit (R37, R38) -/

/-- Take every cell of the new grant's footprint, taking over the cells held by WITHDRAWN grants (R2, R10). -/
def Engine.takeCells (e : Engine) (d : Direction) (pl : Plan) : Engine :=
  let take := fun (t : Table Holder) (x : Nat × Sector) =>
    Table.set t (cellKey d pl.spot.carrier x.1 x.2)
      ⟨pl.id, if x.1 < pl.spot.first + pl.k then .body else .guard⟩
  { e with cells := (footprint pl.spot.first (pl.k + pl.g) pl.excl).foldl take e.cells }

/-- The new record (R20, R126). -/
def Plan.record (pl : Plan) (n : Sector) (q : GrantReq) (frame : Half) : Grant where
  state := if q.pred.isSome then .chained else .pending
  owner := n
  sub := q.handle
  cls := q.cls
  prio := pl.tmpl.priority
  mode := pl.tmpl.mode
  roundLength := pl.tmpl.roundLength
  renewRequired := decide (pl.tmpl.mode = .persistent) && pl.tmpl.renewRequired
  roundNotice := decide (pl.tmpl.mode = .persistent) && pl.tmpl.roundNotice
  dir := q.dir
  carrier := pl.spot.carrier
  first := pl.spot.first
  k := pl.k
  g := pl.g
  excl := pl.excl
  cost := pl.cost
  remaining := pl.tmpl.roundLength
  renewed := false
  stale := false
  pred := q.pred
  succ := none
  admitted := frame

/-- The wait of the new ACTIVATE entry (R38, R67). -/
def Plan.wait (pl : Plan) (c : ConfigItems) : Nat := if pl.tmpl.priority = .emergency then 1 else c.activationLead

/-- The new grant enters the tables (R38, steps 1 to 6). -/
def Engine.enter (pl : Plan) (n : Sector) (q : GrantReq) (c : ConfigItems) (frame : Half) (e : Engine) : Engine :=
  let e1 := e.takeCells q.dir pl
  { e1 with
    grants := Table.set (Table.upd? e1.grants q.pred (fun g => { g with succ := some pl.id })) pl.id
      (pl.record n q frame)
    admission := e1.admission ++ [pl.id]
    subs := Table.upd e1.subs q.handle (fun r => { r with grants := r.grants ++ [pl.id] })
    load := e1.load + pl.cost
    emergencyLoad := if pl.tmpl.priority = .emergency then e1.emergencyLoad + pl.cost else e1.emergencyLoad
    changes := e1.changes ++ [⟨pl.id, .activate, pl.wait c, q.pred.isSome⟩] }

/-- The displaced grants end first: the limit victim, then the victims of the search (R37, R58). -/
def Plan.displace (pl : Plan) (w : Work) : Work :=
  (w.endGrants .preempted pl.limitVictim.toList).endGrants .preempted pl.victims

/-- The commit (R37, R38), with the pass that an EMERGENCY admission asks for (R91) or that R95 gives. -/
def commitGrant (n : Sector) (q : GrantReq) (pl : Plan) (s : State) : Work :=
  let w := (pl.displace (Work.of s.eng)).onEngine (Engine.enter pl n q s.items s.timer.frameCounter)
  if pl.tmpl.priority = .emergency then w.shedPass else w.lateShed

/-- The OK payload of GRANT_REQUEST (R39). -/
def Plan.payload (pl : Plan) (q : GrantReq) (s : State) : List Byte :=
  [byteOf pl.id, byteOf q.dir.code, byteOf pl.spot.carrier.val, byteOf pl.spot.first, byteOf pl.k, byteOf pl.g,
   byteOf (if q.pred.isSome then GrantState.chained else GrantState.pending).code, byteOf (pl.wait s.items),
   yesNoByte s.eng.hold]

/-- R27 to R39. A full table also latches GRANT_TABLE_FULL (R36). -/
def grantRequestBody (n : Sector) (q : GrantReq) (s : State) : State × Reply :=
  match planGrant n q s with
  | .error c => (if c = .tableFull then s.latch .grantTableFull else s, .no c)
  | .ok pl => (s.absorb (commitGrant n q pl s), .ok (pl.payload q s))

/-- GRANT_REQUEST (R27). -/
def execGrantRequest (x : Execution) (s : State) : Out :=
  serveSector .grantRequest parseGrantRequest grantRequestBody x s

/-! ### RENEW, RELEASE, GRANT_QUERY, FORCE_RELEASE -/

/-- The record a port may name: a grant in use, and from a sector port one that the sector owns (R40). -/
def Engine.grantSeen (e : Engine) (p : PortId) (i : Nat) : Option Grant :=
  match Table.get? e.grants i with
  | none => none
  | some g =>
    match p with
    | .site => some g
    | .sector n => if g.owner = n then some g else none

/-- R41. -/
def renewBody (n : Sector) (i : Nat) (s : State) : State × Reply :=
  match s.eng.grantSeen (.sector n) i with
  | none => (s, .no .unknownGrant)
  | some g =>
    if g.mode = .persistent ∧ (g.state = .pending ∨ g.state = .active) then
      ({ s with eng := { s.eng with grants := Table.upd s.eng.grants i (fun x => { x with renewed := true }) } },
        .ok [])
    else (s, .no .wrongState)

/-- RENEW (R41). -/
def execRenew (x : Execution) (s : State) : Out := serveSector .renew parseGrantId renewBody x s

/-- RELEASE of an ACTIVE grant (R43). -/
def Engine.releaseActive (i : Nat) (e : Engine) : Engine :=
  { e with
    grants := Table.upd e.grants i (fun x => { x with state := .releasing })
    changes := e.changes ++ [⟨i, .retire, 1, false⟩] }

/-- R42, R43, with the pass that R95 gives. -/
def releaseBody (n : Sector) (i : Nat) (s : State) : State × Reply :=
  match s.eng.grantSeen (.sector n) i with
  | none => (s, .no .unknownGrant)
  | some g =>
    match g.state with
    | .pending | .chained => (s.absorb ((Work.of s.eng).releaseOffAir i g).lateShed, .ok [])
    | .active => (s.absorb ((Work.of s.eng).onEngine (Engine.releaseActive i)), .ok [])
    | .releasing | .withdrawn _ => (s, .no .alreadyEnding)

/-- RELEASE (R42, R43). -/
def execRelease (x : Execution) (s : State) : Out := serveSector .release parseGrantId releaseBody x s

/-- The Change List entry of a grant (R44). -/
def Engine.entryOf (e : Engine) (i : Nat) : Option Entry := e.changes.find? (fun x => x.id == i)

/-- R44. -/
def grantQueryBody (p : PortId) (i : Nat) (s : State) : State × Reply :=
  match s.eng.grantSeen p i with
  | none => (s, .no .unknownGrant)
  | some g => (s, .ok (grantPayload i g (s.eng.entryOf i)))

/-- GRANT_QUERY (R44). -/
def execGrantQuery (x : Execution) (s : State) : Out :=
  serveAny .grantQuery (fun _ => parseGrantId) grantQueryBody x s

/-- R45, with the pass that R95 gives. -/
def forceReleaseBody (i : Nat) (s : State) : State × Reply :=
  match Table.get? s.eng.grants i with
  | none => (s, .no .unknownGrant)
  | some g =>
    if g.state.isWithdrawn then (s, .no .alreadyEnding)
    else
      let a := s.closeWithShed ((Work.of s.eng).endGrant .forced i)
      (a.2, .ok [byteOf a.1])

/-- FORCE_RELEASE (R45). -/
def execForceRelease (x : Execution) (s : State) : Out := serveSite .forceRelease parseGrantId forceReleaseBody x s

end Sys2Proof.Machine
end

