-- ==== Sys2Proof/Machine/Directory.lean ====
section
/-! DEFINITION. The Subscriber Directory's requests: ATTACH (R106 to R108), DETACH (R109), LINK_REPORT (R111 to
R113), SUBSCRIBER_QUERY (R115), and the sector-wide detach (R116, R117) with the internal item of a sector port's
absence (R166). -/

namespace Sys2Proof.Machine

/-! ### ATTACH -/

/-- A fresh record (R107). -/
def freshSubscriber (n : Sector) (t : Tag) (r : RangeClass) : Subscriber :=
  ⟨.attached, t, n, r, 15, 0, []⟩

/-- A fresh attach takes the lowest FREE record; with none, TABLE_FULL and the event (R105, R107). -/
def freshAttach (n : Sector) (t : Tag) (r : RangeClass) (s : State) : State × Reply :=
  match Table.firstFree? s.eng.subs 256 with
  | none => (s.latch .subscriberTableFull, .no .tableFull)
  | some h =>
    let eng := { s.eng with
      subs := Table.set s.eng.subs h (freshSubscriber n t r)
      tagMap := Table.set s.eng.tagMap t.toNat h }
    ({ s with eng := eng }, .ok [byteOf h, yesNoByte false])

/-- The record after a handover (R108). -/
def Subscriber.rehome (x : Subscriber) (n : Sector) (r : RangeClass) : Subscriber :=
  { x with home := n, range := r, state := .attached, run := 0 }

/-- A handover to sector n (R108). -/
def handover (n : Sector) (r : RangeClass) (h : Nat) (x : Subscriber) (s : State) : State × Reply :=
  let w := ((Work.of s.eng).endGrants .handover x.grants).say x.home (.handedOver x.tag h)
  let w' := w.onEngine (fun e => { e with subs := Table.upd e.subs h (fun y => y.rehome n r) })
  (s.absorb w', .ok [byteOf h, yesNoByte true])

/-- R106. -/
def attachBody (n : Sector) (q : Tag × RangeClass) (s : State) : State × Reply :=
  if s.op ≠ .running then (s, .no .notRunning)
  else if s.sectorDisabled n then (s, .no .sectorDisabled)
  else
    match Table.get? s.eng.tagMap q.1.toNat with
    | none => freshAttach n q.1 q.2 s
    | some h =>
      match Table.get? s.eng.subs h with
      | none => freshAttach n q.1 q.2 s
      | some x => if x.home = n then (s, .no .duplicateTag) else handover n q.2 h x s

/-- ATTACH (R106 to R108). -/
def execAttach (x : Execution) (s : State) : Out := serveSector .attach parseAttach attachBody x s

/-! ### Detaching -/

/-- Every grant of a subscriber's list is ended or withdrawn, the tag leaves the Tag Map, and the record becomes
DETACHING or FREE (R109, R116). -/
def Work.detachOne (c : EndCause) (w : Work) (h : Nat) : Work :=
  match Table.get? w.eng.subs h with
  | none => w
  | some x =>
    (w.endGrants c x.grants).onEngine (fun e =>
      { e with
        tagMap := Table.del e.tagMap x.tag.toNat
        subs :=
          match Table.get? e.subs h with
          | none => e.subs
          | some y => if y.grants = [] then Table.del e.subs h else Table.set e.subs h { y with state := .detaching } })

/-- The state code a handle shows, FREE when its record is not in use (R187). -/
def Engine.subCode (e : Engine) (h : Nat) : Nat :=
  match Table.get? e.subs h with
  | none => 0
  | some x => x.state.code

/-- R109. -/
def detachBody (n : Sector) (h : Nat) (s : State) : State × Reply :=
  match s.eng.subscriberIn n h with
  | none => (s, .no .unknownSubscriber)
  | some _ =>
    let w := Work.detachOne .detached (Work.of s.eng) h
    (s.absorb w, .ok [byteOf (w.eng.subCode h), byteOf w.ended])

/-- DETACH (R109). -/
def execDetach (x : Execution) (s : State) : Out := serveSector .detach parseHandle detachBody x s

/-- The handles of the ATTACHED and SUSPECT records homed in sector n, ascending (R116). -/
def Engine.servedHandles (e : Engine) (n : Sector) : List Nat :=
  (e.subs.filter (fun x => x.2.servedIn n)).map (·.1)

/-- The sector-wide detach of sector n; the notices it would place for n's own port are suppressed (R116, R117). -/
def sectorWideDetach (c : EndCause) (n : Sector) (e : Engine) : Work :=
  let w := (e.servedHandles n).foldl (Work.detachOne c) (Work.of e)
  { w with out := w.out.filter (fun x => x.1 != n) }

/-- SECTOR_DETACH_ITEM (R118, R166): the oldest internal item leaves the list and its detach runs with SECTOR_LOST;
it places no response. -/
def execSectorDetachItem (n : Sector) (s : State) : Out :=
  if s.nextItem = some (.internal (.sectorDetach n)) then
    .next ({ s with arb := { s.arb with internal := s.arb.internal.tail } }.absorb
      (sectorWideDetach .sectorLost n s.eng))
  else .next s

/-- The detach that SECTOR_REBOOT and SECTOR_RESET run, with the payload of its two counts (R118). -/
def State.resetSector (s : State) (n : Sector) : State × Reply :=
  let w := sectorWideDetach .sectorReset n s.eng
  let b := s.countByte (s.eng.servedHandles n).length
  (b.2.absorb w, .ok [b.1, byteOf w.ended])

/-- The notice enable set of sector port n becomes every kind (R155). -/
def State.resetNotices (s : State) (n : Sector) : State :=
  s.setPort (.sector n) { s.port (.sector n) with notices := allNotices }

/-! ### LINK_REPORT -/

/-- The range comparison (R112). -/
def rangeComparison (h : Nat) (x : Subscriber) (r : RangeClass) (w : Work) : Work :=
  if r = x.range then w
  else
    (w.onEngine (fun e =>
      { e with
        grants := e.grants.map (fun y => if x.grants.contains y.1 then (y.1, { y.2 with stale := true }) else y)
        subs := Table.upd e.subs h (fun y => { y with range := r }) })).say x.home (.rangeChanged h x.range r)

/-- The outcome of the standing update: state, run count, and the notice if the standing changes (R113). -/
def standing (floor : Nat) (h : Nat) (x : Subscriber) (q : Fin 16) : SubState × Nat × Option Notice :=
  let poor := decide (q.val < floor)
  match x.state, poor with
  | .attached, false => (.attached, 0, none)
  | .attached, true => if x.run < 2 then (.attached, x.run + 1, none)
      else (.suspect, 0, some (.subscriberSuspect h q))
  | .suspect, true => (.suspect, 0, none)
  | .suspect, false => if x.run < 2 then (.suspect, x.run + 1, none)
      else (.attached, 0, some (.subscriberCleared h))
  | .detaching, _ => (.detaching, x.run, none)

/-- R111 to R113. -/
def linkReportBody (n : Sector) (q : Nat × RangeClass × Fin 16) (s : State) : State × Reply :=
  match s.eng.subscriberIn n q.1 with
  | none => (s, .no .unknownSubscriber)
  | some x =>
    let w := rangeComparison q.1 x q.2.1 (Work.of s.eng)
    let st := standing s.items.qualityFloor q.1 x q.2.2
    let w1 := w.onEngine (fun e =>
      { e with subs := Table.upd e.subs q.1 (fun y => { y with state := st.1, run := st.2.1, quality := q.2.2 }) })
    let w2 := match st.2.2 with
      | none => w1
      | some x' => w1.say x.home x'
    (s.absorb w2, .ok [byteOf st.1.code, byteOf q.2.1.val, byteOf st.2.1])

/-- LINK_REPORT (R111). -/
def execLinkReport (x : Execution) (s : State) : Out := serveSector .linkReport parseLinkReport linkReportBody x s

/-! ### SUBSCRIBER_QUERY -/

/-- The record a port may see: one in use, and from a sector port one homed in its sector (R115). -/
def Engine.subscriberSeen (e : Engine) (p : PortId) (h : Nat) : Option Subscriber :=
  match Table.get? e.subs h with
  | none => none
  | some x =>
    match p with
    | .site => some x
    | .sector n => if x.home = n then some x else none

/-- A byte of the grant list: the id, bit 7 set when WITHDRAWN (11.3). -/
def Engine.listByte (e : Engine) (i : Nat) : Byte := byteOf i ||| bitAt 7 (e.withdrawnGrant i)

/-- The subscriber record layout (11.3). -/
def subscriberPayload (e : Engine) (h : Nat) (x : Subscriber) : List Byte :=
  [byteOf h, byteOf x.state.code] ++ tagBytes x.tag ++
  [byteOf x.home.val, byteOf x.range.val, byteOf x.quality.val, byteOf x.run, byteOf x.grants.length] ++
  x.grants.map e.listByte

/-- R115. -/
def subscriberQueryBody (p : PortId) (h : Nat) (s : State) : State × Reply :=
  match s.eng.subscriberSeen p h with
  | none => (s, .no .unknownSubscriber)
  | some x => (s, .ok (subscriberPayload s.eng h x))

/-- SUBSCRIBER_QUERY (R115). -/
def execSubscriberQuery (x : Execution) (s : State) : Out :=
  serveAny .subscriberQuery (fun _ => parseHandle) subscriberQueryBody x s

end Sys2Proof.Machine
end

