-- ==== Sys2Proof/Machine/Links.lean ====
section
/-! DEFINITION. The Link Ports: transactions (R148 to R151, R182), health (R157, R161), SET_NOTICES (R155),
SECTOR_REBOOT (R163) and requests of unknown kind (R184). -/

namespace Sys2Proof.Machine

/-! ### The outbound frame (R148, R182) -/

/-- The port's NOTICE_LOST flag as the header shows it: sector ports only (R148). -/
def Port.showsLost (p : PortId) (q : Port) : Bool :=
  match p with
  | .sector _ => q.noticeLost
  | .site => false

/-- Bytes 0, 3, 4 and the payload of a frame: the OQ's head entry, or IDLE (11.1). -/
def frameFields : List OutEntry → Byte × Byte × Byte × List Byte
  | [] => (0x01, 0x00, 0x00, [])
  | .response tag cause payload :: _ => (0x02, tag, cause.code, payload)
  | .notice n :: _ => (0x03, byteOf n.code, 0x00, n.payload)

/-- The outbound frame of a transaction, CRC included. -/
def composeFrame (p : PortId) (q : Port) (op : OpState) : List Byte :=
  let f := frameFields q.oq
  withCrc ([f.1, byteOf q.lastIntake.code, portFlags (q.showsLost p) q.health op, f.2.1, f.2.2.1,
    byteOf f.2.2.2.length] ++ f.2.2.2)

/-- TRANSACTION_BEGIN (R148). A port whose transaction is open has SEL asserted already (log 2). -/
def execTransactionBegin (p : PortId) (s : State) : Out :=
  let q := s.port p
  match q.txn with
  | some _ => .next s
  | none =>
    let t : Txn := ⟨composeFrame p q s.op, !q.oq.isEmpty, q.showsLost p, false⟩
    .next (s.setPort p { q with txn := some t })

/-! ### The end of a transaction -/

/-- The outbound side is settled (R149): `clocked` whole bytes were clocked. -/
def Port.settle (clocked : Nat) (t : Txn) (q : Port) : Port :=
  let complete := decide (t.frame.length ≤ clocked)
  { q with
    oq := if complete && t.isHead then q.oq.tail else q.oq
    noticeLost := if complete && t.carriedLost && !t.lostDuring then false else q.noticeLost
    txn := none }

/-- What the tests of R150 say of an inbound frame. -/
inductive Verdict where
  | none | crcBad | tooLong | poll
  | request (r : Request)
  deriving DecidableEq, Repr

/-- The tests of R150 in their order. -/
def classify : List Byte → Verdict
  | [] => .none
  | [k] => if k = 0xFF then .none else .crcBad
  | [k, _] => if k = 0xFF then .none else .crcBad
  | k :: tag :: n :: rest =>
    if k = 0xFF then .none
    else if 24 < n.toNat then .tooLong
    else if rest.length < n.toNat + 2 then .crcBad
    else if (rest.drop (n.toNat + 2)).any (fun b => b != 0xFF) then .tooLong
    else if (rest.drop n.toNat).take 2 ≠ halfBytes (crcOf (k :: tag :: n :: rest.take n.toNat)).toNat then .crcBad
    else if k = 0x00 then .poll
    else .request ⟨k, tag, rest.take n.toNat⟩

/-- A bad frame at the port (R157), and whether the port enters ALERT. -/
def Port.badFrame (q : Port) : Port × Bool :=
  match q.health with
  | .silent | .present =>
    if q.badRun + 1 < 3 then ({ q with badRun := q.badRun + 1, goodRun := 0 }, false)
    else ({ q with health := .alert, badRun := 0, goodRun := 0 }, true)
  | .alert | .absent => ({ q with badRun := min (q.badRun + 1) 3, goodRun := 0 }, false)

/-- A valid frame's effect on health, runs and keepalive (R157, R158, R161). -/
def Port.goodFrame (q : Port) : Port :=
  let q' := { q with badRun := 0, keepalive := 0 }
  match q.health with
  | .silent => { q' with health := .present }
  | .present => q'
  | .alert => if q.goodRun + 1 < 8 then { q' with goodRun := q.goodRun + 1 }
      else { q' with health := .present, goodRun := 0 }
  | .absent => { q' with health := .present }

/-- LINK_RESUMED for a sector port that was ABSENT (R161). -/
def Port.resume (p : PortId) (wasAbsent : Bool) (frame : Half) (q : Port) : Port :=
  match p with
  | .sector _ => if wasAbsent then { q with oq := q.oq ++ [.notice (.linkResumed frame)] } else q
  | .site => q

/-- A valid frame at port p, before its own intake is decided (R157, R158, R161). -/
def Port.valid (p : PortId) (frame : Half) (q : Port) : Port :=
  q.goodFrame.resume p (decide (q.health = .absent)) frame

/-- A request is taken when there is room, and is BUSY otherwise (R151). -/
def Port.intake (r : Request) (q : Port) : Port :=
  if q.rq.length < 8 ∧ q.oq.length + q.owed < 16 then
    { q with rq := q.rq ++ [r], owed := q.owed + 1, lastIntake := .taken }
  else { q with lastIntake := .busy }

/-- The inbound side at the end of a transaction (R150, R151, R157). -/
def Port.receive (p : PortId) (frame : Half) (v : Verdict) (q : Port) : Port × Bool :=
  match v with
  | .none => ({ q with lastIntake := .none }, false)
  | .crcBad => let b := q.badFrame; ({ b.1 with lastIntake := .crcBad }, b.2)
  | .tooLong => let b := q.badFrame; ({ b.1 with lastIntake := .tooLong }, b.2)
  | .poll => ({ q.valid p frame with lastIntake := .pollSeen }, false)
  | .request r => ((q.valid p frame).intake r, false)

/-- TRANSACTION_END (R149 to R151, R157, R161): the bytes shifted in are as many as the bytes clocked out (log 15).
A port with no open transaction takes nothing from it (R174; log 2). -/
def execTransactionEnd (p : PortId) (inbound : List Byte) (s : State) : Out :=
  let q := s.port p
  match q.txn with
  | none => .next s
  | some t =>
    let a := (q.settle inbound.length t).receive p s.timer.frameCounter (classify inbound)
    let s' := s.setPort p a.1
    .next (if a.2 then s'.latch (.portAlert p) else s')

/-! ### Requests on the port itself -/

/-- R155. -/
def setNoticesBody (n : Sector) (m : NoticeSet) (s : State) : State × Reply :=
  (s.setPort (.sector n) { s.port (.sector n) with notices := m }, .ok [m.setWidth 8])

/-- SET_NOTICES (R155). -/
def execSetNotices (x : Execution) (s : State) : Out := serveSector .setNotices parseNotices setNoticesBody x s

/-- R163: flush, sector-wide detach, notice set, and then the response. -/
def sectorRebootBody (n : Sector) (_ : Unit) (s : State) : State × Reply :=
  let r := (s.flushPort (.sector n) true).resetSector n
  (r.1.resetNotices n, r.2)

/-- SECTOR_REBOOT (R163). -/
def execSectorReboot (x : Execution) (s : State) : Out := serveSector .sectorReboot parseNone sectorRebootBody x s

/-- UNKNOWN_KIND_REQUEST (R184): no check or rule but the first of R162. -/
def execUnknownKindRequest (x : Execution) (s : State) : Out :=
  serveIf (fun c => (Kind.ofCode? c).isNone) (fun _ _ s' => (s', .no .unknownKind)) x s

end Sys2Proof.Machine
end

