-- ==== Sys2Proof/Machine/Supervision.lean ====
section
/-! DEFINITION. Site Supervision: device reset (R174), START (R169), STANDBY (R170), SOFT_RESET (R173), CONFIGURE
and READ_CONFIG (R175, R176), SECTOR_RESET (R180), STATUS_READ (R179) and PORT_STATUS (R181). -/

namespace Sys2Proof.Machine

/-- DEVICE_RESET (R174): every piece of state at its device-reset value. The queue of commands and the counter of
the free values are the model's own and stay. -/
def execDeviceReset (s : State) : Out :=
  .next { State.reset with pending := s.pending, freeIndex := s.freeIndex }

/-! ### START, STANDBY, SOFT_RESET -/

/-- The item code of the first check of START that fails (R169). -/
def ConfigItems.startFault (c : ConfigItems) : Option Byte :=
  if c.sectorsEnabled = 0 then some 0x06
  else if c.carriersEnabled = 0 then some 0x07
  else if c.framePeriod ≤ 4 * c.syncTolerance then some 0x03
  else none

/-- The timer state that START gives (R135). -/
def SyncSource.startState : SyncSource → TimerState
  | .internal => .freeRun
  | .external => .locking

/-- Every port's keepalive count becomes 0 (R158, R169). -/
def State.clearKeepalive (s : State) : State :=
  allPorts.foldl (fun s p => s.setPort p { s.port p with keepalive := 0 }) s

/-- R135, R169. -/
def startBody (time : Nat) (_ : Unit) (s : State) : State × Reply :=
  if s.op ≠ .standby then (s, .no .wrongState)
  else
    match s.items.startFault with
    | some code => (s, ⟨.badConfig, [code]⟩)
    | none =>
      let st := s.items.syncSource.startState
      ({ s with
          op := .running
          timer := { s.timer with
            state := st, lastBoundary := time, missed := 0, lostMark := false, frameCounter := 0,
            slot := none } }.clearKeepalive,
        .ok (byteOf st.code :: halfBytes 0))

/-- START (R169). -/
def execStart (x : Execution) (time : Nat) (s : State) : Out := serveSite .start parseNone (startBody time) x s

/-- The drain that STANDBY begins in RUNNING, and its response (R170, R171). -/
def State.beginDrain (s : State) : State × Reply :=
  let w := (Work.of s.eng).endGrants .shutdown s.eng.admission
  let w' := w.onEngine (fun e => { e with hold := false, flush := false })
  let s1 := { s with op := .draining }.absorb w'
  let s2 := if s1.eng.grants = [] then s1.drainComplete else s1
  (s2, .ok [byteOf s2.op.code, byteOf w.ended])

/-- R170. A boundary made while the request executes stays pending, and is processed in STANDBY when the drain
completes at once (R172). -/
def standbyBody (_ : Unit) (s : State) : State × Reply :=
  match s.op with
  | .standby => (s, .ok [byteOf OpState.standby.code, 0])
  | .draining => (s, .no .wrongState)
  | .running => s.beginDrain

/-- STANDBY (R170, R172). -/
def execStandby (x : Execution) (s : State) : Out := serveSite .standby parseNone standbyBody x s

/-- A port after SOFT_RESET: flushed, SILENT, its counts and its notice enable set as R167 gives. -/
def State.softResetPort (s : State) (p : PortId) : State :=
  let s1 := s.flushPort p (decide (p = .site))
  s1.setPort p { s1.port p with
    health := .silent, badRun := 0, goodRun := 0, keepalive := 0, notices := allNotices }

/-- The engine's tables after SOFT_RESET; the blocked flags and the ceiling are kept (R173). -/
def Engine.cleared (e : Engine) : Engine :=
  { Engine.reset with blocked := e.blocked, ceiling := e.ceiling }

/-- R173. -/
def softResetBody (_ : Unit) (s : State) : State × Reply :=
  let s1 := allPorts.foldl State.softResetPort s
  ({ s1.stopTimer with
      eng := s1.eng.cleared
      arb := { s1.arb with internal := [], pendingBoundaries := 0, lastServed := 3 }
      events := 0
      op := .standby },
    .ok [])

/-- SOFT_RESET (R173). -/
def execSoftReset (x : Execution) (s : State) : Out := serveSite .softReset parseNone softResetBody x s

/-! ### Configuration (R175, R176, 11.4) -/

/-- The configuration items. -/
inductive ConfigItem where
  | syncSource | framePeriod | syncTolerance | earlySyncPolicy | holdoverLimit | sectorsEnabled | carriersEnabled
  | adjacency | edgeThreshold | guardTable | capacityTable | rangeFactor | carrierWeight | activationLead
  | priorityPreempt | qualityFloor | sectorKeepalive | siteKeepalive | eventRoute
  deriving DecidableEq, Repr

/-- The item codes of 11.4. -/
def ConfigItem.ofCode? (b : Byte) : Option ConfigItem :=
  match b.toNat with
  | 0x01 => some .syncSource | 0x02 => some .framePeriod | 0x03 => some .syncTolerance
  | 0x04 => some .earlySyncPolicy | 0x05 => some .holdoverLimit | 0x06 => some .sectorsEnabled
  | 0x07 => some .carriersEnabled | 0x08 => some .adjacency | 0x09 => some .edgeThreshold
  | 0x0A => some .guardTable | 0x0B => some .capacityTable | 0x0C => some .rangeFactor
  | 0x0D => some .carrierWeight | 0x0E => some .activationLead | 0x0F => some .priorityPreempt
  | 0x10 => some .qualityFloor | 0x11 => some .sectorKeepalive | 0x12 => some .siteKeepalive
  | 0x13 => some .eventRoute | _ => none

/-- The items writable in STANDBY alone (R175). -/
def ConfigItem.standbyOnly : ConfigItem → Bool
  | .syncSource | .framePeriod | .syncTolerance | .sectorsEnabled | .carriersEnabled | .adjacency
  | .edgeThreshold | .guardTable | .capacityTable | .rangeFactor | .carrierWeight => true
  | .earlySyncPolicy | .holdoverLimit | .activationLead | .priorityPreempt | .qualityFloor | .sectorKeepalive
  | .siteKeepalive | .eventRoute => false

/-- One entry of a table of eight, when the index and the value are in range. -/
def writeEight (v : Vector Nat 8) (i x lo hi : Nat) : Option (Vector Nat 8) :=
  if h : i < 8 then if lo ≤ x ∧ x ≤ hi then some (v.set i x h) else none else none

/-- A value of an item without an index, which takes index 0. -/
def single (i : Nat) (ok : Prop) [Decidable ok] (c : ConfigItems) : Option ConfigItems :=
  if i = 0 ∧ ok then some c else none

/-- The pair of ADJACENCY in a write's index: bits 7 to 4 sector a, bits 3 to 0 sector b, two distinct sectors
(R6, 11.4). -/
def pairOf? (i : Nat) : Option (Sector × Sector) :=
  if h : i / 16 < 4 ∧ i % 16 < 4 ∧ i / 16 ≠ i % 16 then some (⟨i / 16, h.1⟩, ⟨i % 16, h.2.1⟩) else none

/-- The write of one item or entry, none when the index or the value is out of range (R175). -/
def writeItem (item : ConfigItem) (i x : Nat) (c : ConfigItems) : Option ConfigItems :=
  match item with
  | .syncSource => single i (x ≤ 1) { c with syncSource := if x = 0 then .internal else .external }
  | .framePeriod => single i (2000 ≤ x ∧ x ≤ 20000 ∧ x % 16 = 0) { c with framePeriod := x }
  | .syncTolerance => single i (x ≤ 1000) { c with syncTolerance := x }
  | .earlySyncPolicy => single i (x ≤ 1) { c with earlyPolicy := if x = 0 then .truncate else .ignore }
  | .holdoverLimit => single i (1 ≤ x ∧ x ≤ 255) { c with holdoverLimit := x }
  | .sectorsEnabled => single i (x < 16) { c with sectorsEnabled := BitVec.ofNat 4 x }
  | .carriersEnabled => single i (x < 256) { c with carriersEnabled := BitVec.ofNat 8 x }
  | .adjacency =>
    match pairOf? i with
    | none => none
    | some (m, n) => if x ≤ 1 then some { c with adjacency := c.adjacency.setPair m n (x == 1) } else none
  | .edgeThreshold => single i (1 ≤ x ∧ x ≤ 8) { c with edgeThreshold := x }
  | .guardTable => (writeEight c.guardTable i x 0 3).map (fun v => { c with guardTable := v })
  | .capacityTable => (writeEight c.capacityTable i x 1 255).map (fun v => { c with capacityTable := v })
  | .rangeFactor => (writeEight c.rangeFactor i x 1 8).map (fun v => { c with rangeFactor := v })
  | .carrierWeight => (writeEight c.carrierWeight i x 1 15).map (fun v => { c with carrierWeight := v })
  | .activationLead => single i (x = 1 ∨ x = 2) { c with activationLead := x }
  | .priorityPreempt => single i (x ≤ 1) { c with priorityPreempt := x == 1 }
  | .qualityFloor => single i (x ≤ 15) { c with qualityFloor := x }
  | .sectorKeepalive => single i (x ≤ 255) { c with sectorKeepalive := x }
  | .siteKeepalive => single i (x ≤ 255) { c with siteKeepalive := x }
  | .eventRoute =>
    if i < 22 ∧ x ≤ 1 then
      let b := BitVec.ofNat 22 (2 ^ i)
      some { c with eventRoute := if x = 1 then c.eventRoute ||| b else c.eventRoute &&& ~~~b }
    else none

/-- One entry of a table of eight. -/
def readEight (v : Vector Nat 8) (i : Nat) : Option Nat := if h : i < 8 then some v[i] else none

/-- The stored value of an item without an index. -/
def readSingle (i v : Nat) : Option Nat := if i = 0 then some v else none

/-- The stored value of one item or entry, none when the index is out of range (R176). -/
def readItem (item : ConfigItem) (i : Nat) (c : ConfigItems) : Option Nat :=
  match item with
  | .syncSource => readSingle i (if c.syncSource = .internal then 0 else 1)
  | .framePeriod => readSingle i c.framePeriod
  | .syncTolerance => readSingle i c.syncTolerance
  | .earlySyncPolicy => readSingle i (if c.earlyPolicy = .truncate then 0 else 1)
  | .holdoverLimit => readSingle i c.holdoverLimit
  | .sectorsEnabled => readSingle i c.sectorsEnabled.toNat
  | .carriersEnabled => readSingle i c.carriersEnabled.toNat
  | .adjacency => if h : i < 4 then some (c.adjacency.neighbours ⟨i, h⟩).toNat else none
  | .edgeThreshold => readSingle i c.edgeThreshold
  | .guardTable => readEight c.guardTable i
  | .capacityTable => readEight c.capacityTable i
  | .rangeFactor => readEight c.rangeFactor i
  | .carrierWeight => readEight c.carrierWeight i
  | .activationLead => readSingle i c.activationLead
  | .priorityPreempt => readSingle i (if c.priorityPreempt then 1 else 0)
  | .qualityFloor => readSingle i c.qualityFloor
  | .sectorKeepalive => readSingle i c.sectorKeepalive
  | .siteKeepalive => readSingle i c.siteKeepalive
  | .eventRoute => if i < 22 then some (if c.eventRoute.getLsbD i then 1 else 0) else none

/-- R175. -/
def configureBody (q : Byte × Nat × Nat) (s : State) : State × Reply :=
  match ConfigItem.ofCode? q.1 with
  | none => (s, .no .badParameter)
  | some item =>
    match writeItem item q.2.1 q.2.2 s.items with
    | none => (s, .no .badParameter)
    | some items =>
      if item.standbyOnly ∧ s.op ≠ .standby then (s, .no .standbyOnly)
      else ({ s with items := items }, .ok ([q.1, byteOf q.2.1] ++ halfBytes q.2.2))

/-- CONFIGURE (R175). -/
def execConfigure (x : Execution) (s : State) : Out := serveSite .configure parseConfigure configureBody x s

/-- R176. -/
def readConfigBody (q : Byte × Nat) (s : State) : State × Reply :=
  match (ConfigItem.ofCode? q.1).bind (fun item => readItem item q.2 s.items) with
  | none => (s, .no .badParameter)
  | some v => (s, .ok ([q.1, byteOf q.2] ++ halfBytes v))

/-- READ_CONFIG (R176). -/
def execReadConfig (x : Execution) (s : State) : Out := serveSite .readConfig parseReadConfig readConfigBody x s

/-! ### The other site requests -/

/-- R180: flush, sector-wide detach, notice set. -/
def sectorResetBody (n : Sector) (s : State) : State × Reply :=
  let r := (s.flushPort (.sector n) false).resetSector n
  (r.1.resetNotices n, r.2)

/-- SECTOR_RESET (R180). -/
def execSectorReset (x : Execution) (s : State) : Out := serveSite .sectorReset parseSector sectorResetBody x s

/-- The event set as three bytes, bits 22 and 23 pad (R183). -/
def eventBytes (e : EventSet) : List Byte := [byteOf (e.toNat / 65536), byteOf (e.toNat / 256), byteOf e.toNat]

/-- R179. -/
def statusReadBody (_ : Unit) (s : State) : State × Reply :=
  ({ s with events := 0 },
    .ok (eventBytes s.events ++ [byteOf s.op.code, byteOf s.timer.state.code] ++ halfBytes s.timer.missed ++
      halfBytes s.timer.frameCounter.toNat))

/-- STATUS_READ (R179). -/
def execStatusRead (x : Execution) (s : State) : Out := serveSite .statusRead parseNone statusReadBody x s

/-- Whether an internal item for the port waits in the arbiter's list (R181). -/
def State.itemWaits (s : State) : PortId → Bool
  | .sector n => s.arb.internal.contains (.sectorDetach n)
  | .site => s.arb.internal.contains .siteAbsence

/-- The four bytes of a port in the port status layout (11.3). -/
def State.portBytes (s : State) (p : PortId) : List Byte :=
  let q := s.port p
  [byteOf (q.health.code * 64 + q.badRun * 16 + q.goodRun), byteOf q.keepalive,
   byteOf (q.rq.length * 16 + q.lastIntake.code * 2 + (if s.arb.executing = some p then 1 else 0)),
   bitAt 7 (q.showsLost p) ||| bitAt 6 (s.itemWaits p) ||| byteOf q.oq.length]

/-- The port status layout, 24 bytes (11.3). -/
def State.portStatusPayload (s : State) : List Byte :=
  allPorts.flatMap s.portBytes ++
  [(s.port (.sector 0)).notices.setWidth 8, (s.port (.sector 1)).notices.setWidth 8,
   (s.port (.sector 2)).notices.setWidth 8, (s.port (.sector 3)).notices.setWidth 8]

/-- R181. -/
def portStatusBody (_ : Unit) (s : State) : State × Reply := (s, .ok s.portStatusPayload)

/-- PORT_STATUS (R181). -/
def execPortStatus (x : Execution) (s : State) : Out := serveSite .portStatus parseNone portStatusBody x s

end Sys2Proof.Machine
end

