-- ==== Sys2Proof/Machine/Dispatch.lean ====
section
/-! DEFINITION. Dispatch: each command to its meaning. -/

namespace Sys2Proof.Machine

def exec (i : Instr) (s : State) : Host.Outcome State Fault Refusal :=
  match i with
  | .deviceReset => Sys2Proof.Machine.execDeviceReset s
  | .transactionBegin p => Sys2Proof.Machine.execTransactionBegin p s
  | .transactionEnd p inbound => Sys2Proof.Machine.execTransactionEnd p inbound s
  | .freeRunPeriodExpiry => Sys2Proof.Machine.execFreeRunPeriodExpiry s
  | .lockingPeriodExpiry => Sys2Proof.Machine.execLockingPeriodExpiry s
  | .lockedSyncTimeout => Sys2Proof.Machine.execLockedSyncTimeout s
  | .holdoverPeriodExpiry => Sys2Proof.Machine.execHoldoverPeriodExpiry s
  | .fsyncPulse t => Sys2Proof.Machine.execFsyncPulse t s
  | .fmarkPulseEnd => Sys2Proof.Machine.execFmarkPulseEnd s
  | .slotStart n => Sys2Proof.Machine.execSlotStart n s
  | .boundaryProcessing => Sys2Proof.Machine.execBoundaryProcessing s
  | .sectorDetachItem n => Sys2Proof.Machine.execSectorDetachItem n s
  | .siteAbsenceItem => Sys2Proof.Machine.execSiteAbsenceItem s
  | .unknownKindRequest p => Sys2Proof.Machine.execUnknownKindRequest p s
  | .attach p => Sys2Proof.Machine.execAttach p s
  | .detach p => Sys2Proof.Machine.execDetach p s
  | .linkReport p => Sys2Proof.Machine.execLinkReport p s
  | .grantRequest p => Sys2Proof.Machine.execGrantRequest p s
  | .renew p => Sys2Proof.Machine.execRenew p s
  | .release p => Sys2Proof.Machine.execRelease p s
  | .setNotices p => Sys2Proof.Machine.execSetNotices p s
  | .sectorReboot p => Sys2Proof.Machine.execSectorReboot p s
  | .grantQuery p => Sys2Proof.Machine.execGrantQuery p s
  | .subscriberQuery p => Sys2Proof.Machine.execSubscriberQuery p s
  | .scheduleQuery p => Sys2Proof.Machine.execScheduleQuery p s
  | .start p time => Sys2Proof.Machine.execStart p time s
  | .standby p => Sys2Proof.Machine.execStandby p s
  | .softReset p => Sys2Proof.Machine.execSoftReset p s
  | .configure p => Sys2Proof.Machine.execConfigure p s
  | .readConfig p => Sys2Proof.Machine.execReadConfig p s
  | .blockTiles p => Sys2Proof.Machine.execBlockTiles p s
  | .setCeiling p => Sys2Proof.Machine.execSetCeiling p s
  | .hold p => Sys2Proof.Machine.execHold p s
  | .unhold p => Sys2Proof.Machine.execUnhold p s
  | .forceRelease p => Sys2Proof.Machine.execForceRelease p s
  | .sectorReset p => Sys2Proof.Machine.execSectorReset p s
  | .templateWrite p => Sys2Proof.Machine.execTemplateWrite p s
  | .templateRead p => Sys2Proof.Machine.execTemplateRead p s
  | .classWrite p => Sys2Proof.Machine.execClassWrite p s
  | .statusRead p => Sys2Proof.Machine.execStatusRead p s
  | .portStatus p => Sys2Proof.Machine.execPortStatus p s
  | .loadQuery p => Sys2Proof.Machine.execLoadQuery p s

end Sys2Proof.Machine
end

