-- ==== Sys2Proof/Machine/Step.lean ====
section
/-! DEFINITION. One step: the command at the front of the queue. -/

namespace Sys2Proof.Machine

/-- The state with the queue's rest. -/
def State.withPending (s : State) (cs : List Instr) : State := { s with pending := cs }

/-- Take the command at the front of the queue and run it on the state with the queue's rest. On an empty queue the
part idles (log 4). -/
def step (s : State) : Host.Outcome State Fault Refusal :=
  match s.pending with
  | [] => .next s
  | c :: cs => exec c (s.withPending cs)

/-- The command that a word spells at the front of the queue; unchanged when it spells none (log 19). -/
def State.withFetchWord (s : State) (nbits w : Nat) : State :=
  match decodeTableWord nbits w with
  | none => s
  | some c => s.withPending (c :: s.pending)

end Sys2Proof.Machine
end

