-- ==== Sys2Proof/Safety.lean ====
section
/-! DEFINITION. What counts as a lawful state of the part, and the terms that claims about it use: which request is
served, what an answer changes, what a boundary does to the ports. -/

namespace Sys2Proof.Machine

/-! ### Laws of the state -/

/-- The law of a port's queues (R152), between items: at most 8 requests, at most 16 entries and owed responses
together, the owed count the number of requests; and a port that is ABSENT has empty queues (R159). -/
def Port.lawful (q : Port) : Prop :=
  q.rq.length ≤ 8 ∧ q.oq.length + q.owed ≤ 16 ∧ q.owed = q.rq.length ∧ (q.health = .absent → q.oq = [] ∧ q.rq = [])

/-- Every port is lawful and no request is left executing. -/
def State.portsLawful (s : State) : Prop :=
  (∀ p, (s.port p).lawful) ∧ s.arb.executing = none ∧ s.arb.discard = false

/-- What holds of a stopped part (R133, R144 to R146, R168): the timer is STOPPED in STANDBY alone; when it is
STOPPED no slot is current and every KEY line is deasserted; in STANDBY no grant record, subscriber record or Tag Map
entry is in use and the Air Map is empty. -/
def State.standbyLawful (s : State) : Prop :=
  (s.op = .standby ↔ s.timer.state = .stopped) ∧
  (s.timer.state = .stopped → s.timer.slot = none ∧ s.keying.keys = 0) ∧
  (s.op = .standby → s.eng.grants = [] ∧ s.eng.subs = [] ∧ s.eng.tagMap = [] ∧ s.keying.airMap = emptyAirMap)

/-- The sum of the costs of the counted grants that satisfy a test (R87). -/
def Engine.sumCosts (e : Engine) (f : Grant → Bool) : Nat :=
  ((e.grants.filter (fun x => x.2.state.counted && f x.2)).map (fun x => x.2.cost)).sum

/-- The law of the load: the admitted load is the sum of the costs of the PENDING, CHAINED, ACTIVE and RELEASING
grants, and the emergency load the same sum over the EMERGENCY grants (R87). -/
def Engine.loadLawful (e : Engine) : Prop :=
  e.load = e.sumCosts (fun _ => true) ∧ e.emergencyLoad = e.sumCosts (fun g => decide (g.prio = .emergency))

/-- Every sparse table keeps its canonical form. -/
def Engine.tablesWf (e : Engine) : Prop :=
  Table.wf e.cells ∧ Table.wf e.blocked ∧ Table.wf e.grants ∧ Table.wf e.subs ∧ Table.wf e.tagMap

/-- The Admission List holds the grants in use and no others, and the Change List names grants in use only (R23,
R66). -/
def Engine.listsLawful (e : Engine) : Prop :=
  (∀ i ∈ e.admission, Table.has e.grants i = true) ∧ (∀ x ∈ e.grants, x.1 ∈ e.admission) ∧
  (∀ x ∈ e.changes, Table.has e.grants x.id = true)

/-- The three laws of the engine's tables together. -/
def Engine.lawful (e : Engine) : Prop := e.tablesWf ∧ e.listsLawful ∧ e.loadLawful

/-- The law of the Admission List and the grant lists (R23, R31, R103): no id stands twice in the Admission List; a
subscriber's list holds its grants in the order of the Admission List, at most four of them counted, and that of a
DETACHING record is not empty (R110); every grant names a subscriber in use, and, unless it is WITHDRAWN, one that is not DETACHING and is homed in the grant's owner sector. -/
def Engine.membersLawful (e : Engine) : Prop :=
  e.admission.Nodup ∧
  (∀ x ∈ e.subs, x.2.grants = e.admission.filter (fun i =>
      decide ((Table.get? e.grants i).map (·.sub) = some x.1)) ∧
    (e.countedOf x.2).length ≤ 4 ∧ (x.2.state = .detaching → x.2.grants ≠ [])) ∧
  (∀ x ∈ e.grants, ∃ r, Table.get? e.subs x.2.sub = some r ∧
    (x.2.state.isWithdrawn = false → r.state ≠ .detaching ∧ r.home = x.2.owner))

/-- The law of chains (R32): a CHAINED grant, and no other, names a predecessor, which is a ONE_SHOT grant of the same
subscriber and owner, not WITHDRAWN, whose successor it is; a successor is CHAINED and names its predecessor; and no
chain is longer than 4 grants. -/
def Engine.chainsLawful (e : Engine) : Prop :=
  (∀ x ∈ e.grants, (x.2.state = .chained ↔ x.2.pred ≠ none) ∧
    (∀ p, x.2.pred = some p → ∃ y, Table.get? e.grants p = some y ∧ y.mode = .oneShot ∧ y.sub = x.2.sub ∧
      y.owner = x.2.owner ∧ y.state.isWithdrawn = false ∧ y.succ = some x.1) ∧
    (∀ j, x.2.succ = some j → ∃ y, Table.get? e.grants j = some y ∧ y.state = .chained ∧ y.pred = some x.1)) ∧
  (∀ x ∈ e.grants, (chainUp e.grants 5 (some x.1)).length ≤ 4)

/-- The law of the Change List (R66): one entry for each PENDING, CHAINED and RELEASING grant, ACTIVATE for the first
two and RETIRE for the third, marked exactly when the grant is CHAINED, and no other entry. -/
def Engine.changesLawful (e : Engine) : Prop :=
  (e.changes.map (·.id)).Nodup ∧
  (∀ x ∈ e.changes, ∃ g, Table.get? e.grants x.id = some g ∧
    ((x.kind = .activate ∧ g.state.offAir = true) ∨ (x.kind = .retire ∧ g.state = .releasing)) ∧
    (x.mark = true ↔ g.state = .chained)) ∧
  (∀ x ∈ e.grants, x.2.state.offAir = true ∨ x.2.state = .releasing → x.1 ∈ e.changes.map (·.id))

/-- The laws of the links and lists of grants together. -/
def Engine.linksLawful (e : Engine) : Prop := e.membersLawful ∧ e.chainsLawful ∧ e.changesLawful

/-- The second law of the load (R87, R92): it is at or under the ceiling, or no candidate for shedding is counted. -/
def Engine.shedLawful (e : Engine) : Prop := e.load ≤ e.ceiling ∨ ∀ i ∈ e.admission, e.isCandidate i = false

/-- The law of the Tag Map: it holds a tag exactly when a record in ATTACHED or SUSPECT carries that tag, and names
that record (R104). -/
def Engine.tagsLawful (e : Engine) : Prop :=
  ∀ tag h, Table.get? e.tagMap tag = some h ↔
    ∃ x, Table.get? e.subs h = some x ∧ x.state ≠ .detaching ∧ x.tag.toNat = tag

/-! ### Requests -/

/-- The arbiter hands over request r, of kind k, from the head of port p's queue; its response is not marked. -/
abbrev State.serving (s : State) (p : PortId) (k : Kind) (r : Request) (rest : List Request) : Prop :=
  s.nextItem = some (.request p) ∧ (s.port p).rq = r :: rest ∧ r.kind = k.code ∧ s.arb.discard = false

/-- The response of request r. -/
abbrev Request.answer (r : Request) (rep : Reply) : OutEntry := .response r.tag rep.cause rep.payload

/-- The request left its queue, its response is the newest entry of its port's Outbound Queue, the owed count fell by
one, and no other port changed (R152). -/
def Answered (s t : State) (p : PortId) (r : Request) (rest : List Request) (rep : Reply) : Prop :=
  t.port p = { s.port p with
    rq := rest, oq := (s.port p).oq ++ [r.answer rep], owed := (s.port p).owed - 1 } ∧
  (∀ q, q ≠ p → t.port q = s.port q) ∧
  t.arb = { s.arb with executing := none, lastServed := s.servedAfter p }

/-- Everything of a port but its Outbound Queue, its NOTICE_LOST flag and its open transaction is as before. -/
def PortKept (a b : Port) : Prop :=
  b.rq = a.rq ∧ b.owed = a.owed ∧ b.health = a.health ∧ b.badRun = a.badRun ∧ b.goodRun = a.goodRun ∧
  b.keepalive = a.keepalive ∧ b.lastIntake = a.lastIntake ∧ b.notices = a.notices

/-- Only notices were placed at a port. -/
def PortNoticed (a b : Port) : Prop :=
  PortKept a b ∧ ∃ ns : List Notice, b.oq = a.oq ++ ns.map OutEntry.notice

/-- As `Answered`, where the item also placed notices: at the requesting port they stand ahead of the response
(R39, R154). -/
def AnsweredWithNotices (s t : State) (p : PortId) (r : Request) (rest : List Request) (rep : Reply) : Prop :=
  PortKept { s.port p with rq := rest, owed := (s.port p).owed - 1 } (t.port p) ∧
  (∃ ns : List Notice, (t.port p).oq = (s.port p).oq ++ ns.map OutEntry.notice ++ [r.answer rep]) ∧
  (∀ q, q ≠ p → PortNoticed (s.port q) (t.port q)) ∧
  t.arb = { s.arb with executing := none, lastServed := s.servedAfter p }

/-- As `AnsweredWithNotices`, where the notices are known: the ports are those after the notices were placed (R154),
and the requesting port's after its response as well. -/
def AnsweredAfter (s t : State) (p : PortId) (r : Request) (rest : List Request) (rep : Reply)
    (out : List (Sector × Notice)) : Prop :=
  let u := s.placeNotices out
  t.port p = { u.port p with rq := rest, oq := (u.port p).oq ++ [r.answer rep], owed := (s.port p).owed - 1 } ∧
  (∀ q, q ≠ p → t.port q = u.port q) ∧
  t.arb = { s.arb with executing := none, lastServed := s.servedAfter p }

/-- The operating state, the configuration, the timer, the keying and the class tables are as before, and so is the
queue of commands. -/
def SameSite (s t : State) : Prop :=
  t.pending = s.pending ∧ t.op = s.op ∧ t.items = s.items ∧ t.timer = s.timer ∧ t.keying = s.keying ∧
  t.classes = s.classes ∧ t.templates = s.templates

/-- The engine's tables, the events and the free counter are as before. -/
def SameEngine (s t : State) : Prop := t.eng = s.eng ∧ t.events = s.events ∧ t.freeIndex = s.freeIndex

/-- Nothing but ports and arbiter changed. -/
def NothingElse (s t : State) : Prop := SameSite s t ∧ SameEngine s t

/-- The sector kinds of R162. -/
def Kind.sectorKind : Kind → Bool
  | .attach | .detach | .linkReport | .grantRequest | .renew | .release | .setNotices | .sectorReboot => true
  | _ => false

/-- The kinds permitted on every port (R162). -/
def Kind.anyKind : Kind → Bool
  | .grantQuery | .subscriberQuery | .scheduleQuery => true
  | _ => false

/-- The site kinds of R162. -/
def Kind.siteKind (k : Kind) : Bool := !k.sectorKind && !k.anyKind

/-- Check 2 of R162: the kind is permitted on the port. -/
def Kind.permitted (k : Kind) : PortId → Bool
  | .sector _ => !k.siteKind
  | .site => !k.sectorKind

/-- The column n of the kind table (11.3, R185). -/
def Kind.paramLength : Kind → PortId → Nat
  | .attach, _ => 5 | .detach, _ => 1 | .linkReport, _ => 3 | .grantRequest, _ => 6 | .renew, _ => 1
  | .release, _ => 1 | .setNotices, _ => 1 | .sectorReboot, _ => 0
  | .grantQuery, _ => 1 | .subscriberQuery, _ => 1 | .scheduleQuery, .sector _ => 2 | .scheduleQuery, .site => 3
  | .start, _ => 0 | .standby, _ => 0 | .softReset, _ => 0 | .configure, _ => 4 | .readConfig, _ => 2
  | .blockTiles, _ => 6 | .setCeiling, _ => 2 | .hold, _ => 0 | .unhold, _ => 0 | .forceRelease, _ => 1
  | .sectorReset, _ => 1 | .templateWrite, _ => 9 | .templateRead, _ => 1 | .classWrite, _ => 3
  | .statusRead, _ => 0 | .portStatus, _ => 0 | .loadQuery, _ => 0

/-- The command that executes a request of a kind; the time matters for START alone. -/
def Kind.run (time : Nat) : Kind → Execution → Instr
  | .attach, x => .attach x | .detach, x => .detach x | .linkReport, x => .linkReport x
  | .grantRequest, x => .grantRequest x | .renew, x => .renew x | .release, x => .release x
  | .setNotices, x => .setNotices x | .sectorReboot, x => .sectorReboot x | .grantQuery, x => .grantQuery x
  | .subscriberQuery, x => .subscriberQuery x | .scheduleQuery, x => .scheduleQuery x
  | .start, x => .start x time | .standby, x => .standby x | .softReset, x => .softReset x
  | .configure, x => .configure x | .readConfig, x => .readConfig x | .blockTiles, x => .blockTiles x
  | .setCeiling, x => .setCeiling x | .hold, x => .hold x | .unhold, x => .unhold x
  | .forceRelease, x => .forceRelease x | .sectorReset, x => .sectorReset x
  | .templateWrite, x => .templateWrite x | .templateRead, x => .templateRead x | .classWrite, x => .classWrite x
  | .statusRead, x => .statusRead x | .portStatus, x => .portStatus x | .loadQuery, x => .loadQuery x

/-- The commands that execute request r: that of its kind, and UNKNOWN_KIND_REQUEST when no kind has its code. -/
def Request.commands (r : Request) (c : Execution → Instr) : Prop :=
  (∃ (k : Kind) (time : Nat), r.kind = k.code ∧ c = k.run time) ∨
  ((∀ k : Kind, k.code ≠ r.kind) ∧ c = .unknownKindRequest)

/-- As `Kind.run`, where nothing reaches the timer while the request executes. -/
abbrev Kind.command (time : Nat) (k : Kind) (p : PortId) : Instr := k.run time ⟨p, []⟩

/-! ### Grants -/

/-- A grant has ended: its record is FREE, or it is WITHDRAWN. -/
def Engine.hasEnded (e : Engine) (i : Nat) : Prop :=
  ∀ g, Table.get? e.grants i = some g → g.state.isWithdrawn = true

/-- The grants of a list end with cause c (R24 to R26): one off air becomes FREE, one on air becomes WITHDRAWN with c
and loses its successor, and one that is WITHDRAWN already stays as it is. -/
def EndWith (c : EndCause) (e e' : Engine) (is : List Nat) : Prop :=
  ∀ i ∈ is, ∀ g, Table.get? e.grants i = some g →
    (g.state.offAir = true → Table.get? e'.grants i = none) ∧
    (g.state.keyed = true → Table.get? e'.grants i = some { g with state := .withdrawn c, succ := none }) ∧
    (g.state.isWithdrawn = true → Table.get? e'.grants i = some g)

/-- The grants that ended between two states: in use and not WITHDRAWN before, FREE or WITHDRAWN after. -/
def Engine.endedBy (e e' : Engine) : List Nat :=
  (e.grants.filter (fun x => x.2.state.counted &&
    match Table.get? e'.grants x.1 with
    | none => true
    | some g => g.state.isWithdrawn)).map (·.1)

/-- The grants of a list that keep their records when the list is ended: those on air and those WITHDRAWN. -/
def Engine.staying (e : Engine) (is : List Nat) : List Nat :=
  is.filter (fun i => match Table.get? e.grants i with | none => false | some g => !g.state.offAir)

/-- The cause with which Stage A ends an on-air grant, none when the grant stays (R74, R75). -/
def Grant.countEnd (g : Grant) : Option EndCause :=
  if 1 < g.remaining then none
  else match g.mode with
    | .oneShot => some .expired
    | .persistent =>
      if g.renewRequired = true ∧ g.renewed = false then some .notRenewed
      else if g.stale = true then some .rangeChanged
      else none

/-- The notice of Stage A for an on-air grant i, if any (R74, R75, R81). -/
def Grant.countNotice (i : Nat) (g : Grant) : Option (Sector × Notice) :=
  match g.countEnd with
  | some c => some (g.owner, .grantEnded i c)
  | none => if g.remaining ≤ 1 ∧ g.roundNotice = true then some (g.owner, .roundEnd i) else none

/-- The notice of Stage B for a WITHDRAWN grant i: none for the causes that R81 and R117 keep silent. -/
def Grant.retireNotice (i : Nat) (g : Grant) : Option (Sector × Notice) :=
  match g.state with
  | .withdrawn c => if c = .sectorLost ∨ c = .sectorReset then none else some (g.owner, .grantEnded i c)
  | _ => none

/-- Stage C applies an entry whose mark is off: under a flush whatever its wait, and otherwise when its wait comes to
0, under HOLD for an EMERGENCY grant alone (R77, R78). -/
def Engine.applies (e : Engine) (emergency : Bool) (wait : Nat) : Prop :=
  e.flush = true ∨ ((e.hold = false ∨ emergency = true) ∧ wait ≤ 1)

/-- The wait that Stage C leaves an entry it does not apply (R77). -/
def Engine.nextWait (e : Engine) (emergency : Bool) (wait : Nat) : Nat :=
  if e.flush = false ∧ e.hold = true ∧ emergency = false then wait else wait - 1

/-- The cells of a grant's span × exclusion set (R5, R9). -/
def Grant.covers (g : Grant) (d : Direction) (c : Carrier) (slot : Nat) (n : Sector) : Prop :=
  d = g.dir ∧ c = g.carrier ∧ g.first ≤ slot ∧ slot < g.first + g.k + g.g ∧ g.excl.getLsbD n.val = true

/-- The role of a slot in a grant's span (R3). -/
def Grant.roleAt (g : Grant) (slot : Nat) : Role := if slot < g.first + g.k then .body else .guard

/-- The law of the grid: every grant's span lies in slots 1 to 15 (R3); a counted grant holds every cell of its span ×
exclusion set, in its slot's role, and no tile of it is blocked (R8, R9, R13); a held cell lies in its holder's span ×
exclusion set, in its slot's role (R2). -/
def Engine.gridLawful (e : Engine) : Prop :=
  (∀ x ∈ e.grants, 1 ≤ x.2.first ∧ x.2.first + x.2.k + x.2.g ≤ 16) ∧
  (∀ x ∈ e.grants, x.2.state.counted = true → ∀ d c slot n, x.2.covers d c slot n →
    e.holder d c slot n = some ⟨x.1, x.2.roleAt slot⟩ ∧ e.isBlocked d c slot = false) ∧
  (∀ d c slot n h, slot ≤ 15 → e.holder d c slot n = some h →
    ∃ g, Table.get? e.grants h.grant = some g ∧ g.covers d c slot n ∧ h.role = g.roleAt slot)

/-! ### Subscribers -/

/-- What a sector-wide detach of sector n leaves (R116): no record homed in n is ATTACHED or SUSPECT; the tags of the
records it detached are off the Tag Map and their grants have ended; a record homed elsewhere keeps all but, at most,
its grant list; the blocked flags, HOLD, flush and the ceiling are as before. Where the laws of the tables hold before,
the grants of the detached records end with cause c, and no other grant changes; a detached record keeps its place,
DETACHING, while grants stay on its list, and is FREE otherwise; every other record is unchanged, DETACHING ones of n
included; and the Tag Map loses the tags of the detached records alone. -/
def SectorDetached (c : EndCause) (n : Sector) (e e' : Engine) : Prop :=
  (∀ x ∈ e'.subs, x.2.home = n → x.2.state = .detaching) ∧
  (∀ x ∈ e.subs, x.2.servedIn n = true →
    Table.get? e'.tagMap x.2.tag.toNat = none ∧ ∀ i ∈ x.2.grants, e'.hasEnded i) ∧
  (∀ x ∈ e.subs, x.2.home ≠ n → x.2.state ≠ .detaching →
    ∃ l, Table.get? e'.subs x.1 = some { x.2 with grants := l }) ∧
  e'.blocked = e.blocked ∧ e'.hold = e.hold ∧ e'.flush = e.flush ∧ e'.ceiling = e.ceiling ∧
  (e.lawful → e.linksLawful → e.tagsLawful →
    (∀ x ∈ e.subs,
      (x.2.servedIn n = true →
        EndWith c e e' x.2.grants ∧
        (e.staying x.2.grants = [] → Table.get? e'.subs x.1 = none) ∧
        (e.staying x.2.grants ≠ [] → Table.get? e'.subs x.1 =
          some { x.2 with state := .detaching, grants := e.staying x.2.grants })) ∧
      (x.2.servedIn n = false →
        Table.get? e'.subs x.1 = some x.2 ∧ ∀ i ∈ x.2.grants, Table.get? e'.grants i = Table.get? e.grants i)) ∧
    (∀ x ∈ e.subs, x.2.servedIn n = false → x.2.state ≠ .detaching →
      Table.get? e'.tagMap x.2.tag.toNat = some x.1))

/-! ### Configuration -/

/-- The index and value ranges of the item table (R175, 11.4). -/
def ConfigItem.inRange (item : ConfigItem) (i x : Nat) : Prop :=
  match item with
  | .syncSource | .earlySyncPolicy | .priorityPreempt => i = 0 ∧ x ≤ 1
  | .framePeriod => i = 0 ∧ 2000 ≤ x ∧ x ≤ 20000 ∧ x % 16 = 0
  | .syncTolerance => i = 0 ∧ x ≤ 1000
  | .holdoverLimit => i = 0 ∧ 1 ≤ x ∧ x ≤ 255
  | .sectorsEnabled => i = 0 ∧ x ≤ 15
  | .carriersEnabled => i = 0 ∧ x ≤ 255
  | .adjacency => (∃ a b : Sector, a ≠ b ∧ i = a.val * 16 + b.val) ∧ x ≤ 1
  | .edgeThreshold => i = 0 ∧ 1 ≤ x ∧ x ≤ 8
  | .guardTable => i ≤ 7 ∧ x ≤ 3
  | .capacityTable => i ≤ 7 ∧ 1 ≤ x ∧ x ≤ 255
  | .rangeFactor => i ≤ 7 ∧ 1 ≤ x ∧ x ≤ 8
  | .carrierWeight => i ≤ 7 ∧ 1 ≤ x ∧ x ≤ 15
  | .activationLead => i = 0 ∧ (x = 1 ∨ x = 2)
  | .qualityFloor => i = 0 ∧ x ≤ 15
  | .sectorKeepalive | .siteKeepalive => i = 0 ∧ x ≤ 255
  | .eventRoute => i ≤ 21 ∧ x ≤ 1

/-- The last index of an item in READ_CONFIG (R176, 11.4): ADJACENCY names one sector there. -/
def ConfigItem.lastIndex : ConfigItem → Nat
  | .adjacency => 3
  | .guardTable | .capacityTable | .rangeFactor | .carrierWeight => 7
  | .eventRoute => 21
  | .syncSource | .framePeriod | .syncTolerance | .earlySyncPolicy | .holdoverLimit | .sectorsEnabled
  | .carriersEnabled | .edgeThreshold | .activationLead | .priorityPreempt | .qualityFloor | .sectorKeepalive
  | .siteKeepalive => 0

/-! ### Boundaries -/

/-- The keepalive count after a boundary (R158). -/
def nextKeepalive (window : Nat) (q : Port) : Nat :=
  if (q.health = .present ∨ q.health = .alert) ∧ window ≠ 0 ∧ q.keepalive < window then q.keepalive + 1
  else q.keepalive

/-- The boundary declares the port absent: it is watched, its count is at the window, and no transaction is in
progress (R158). -/
def becomesAbsent (window : Nat) (q : Port) : Prop :=
  (q.health = .present ∨ q.health = .alert) ∧ window ≠ 0 ∧ window ≤ nextKeepalive window q ∧ q.txn = none

/-- What a boundary does to a port (R158 to R160). -/
def PortAtBoundary (window : Nat) (a b : Port) : Prop :=
  (becomesAbsent window a →
    b = { a with
      rq := [], oq := [], owed := 0, health := .absent, badRun := 0, goodRun := 0, keepalive := 0,
      noticeLost := false, lastIntake := .none }) ∧
  (¬ becomesAbsent window a → b = { a with keepalive := nextKeepalive window a })

/-- The boundary declares port p of state s absent. -/
def State.losesPort (s : State) (p : PortId) : Prop := becomesAbsent (s.items.window p) (s.port p)

/-- The internal items that a boundary owes: one for each sector port it declares absent, and one for the site port
when HOLD is on (R159, R160). -/
def State.owesItem (s : State) : InternalItem → Prop
  | .sectorDetach n => s.losesPort (.sector n)
  | .siteAbsence => s.losesPort .site ∧ s.eng.hold = true

/-- The events of a boundary: PORT_ABSENT of the ports it declares absent, and others of the given kind. -/
def EventsGrow (s t : State) (extra : Event → Prop) : Prop :=
  ∀ e : Event, e.isIn t.events = true ↔
    (e.isIn s.events = true ∨ (∃ p, e = .portAbsent p ∧ s.losesPort p) ∨ extra e)

/-- What every boundary does at the instant it is made (R142): the timer's state and missed count, and the events,
are said apart. The internal items owed and not waiting already are appended, each once. -/
def BoundaryMade (s t : State) (time : Nat) : Prop :=
  t.timer.frameCounter = s.timer.frameCounter + 1 ∧ t.timer.lastBoundary = time ∧ t.timer.slot = some 0 ∧
  t.timer.fmark = true ∧ t.keying = { s.keying with keys := 0 } ∧
  t.arb.pendingBoundaries = s.arb.pendingBoundaries + 1 ∧ t.arb.lastServed = s.arb.lastServed ∧
  (∃ new : List InternalItem, t.arb.internal = s.arb.internal ++ new ∧ new.Nodup ∧
    ∀ i, i ∈ new ↔ (s.owesItem i ∧ i ∉ s.arb.internal)) ∧
  (∀ p, PortAtBoundary (s.items.window p) (s.port p) (t.port p)) ∧
  t.pending = s.pending ∧ t.op = s.op ∧ t.items = s.items ∧ t.eng = s.eng ∧ t.classes = s.classes ∧
  t.templates = s.templates

end Sys2Proof.Machine
end

