-- ==== Sys2Proof/Certificates/Slice0/Obligations.lean ====
section
/-! DEFINITION. The statements about the Berjaf 2408: one Prop each, proved elsewhere. Where a clause is the model's
own choice, the docstring names the log entry (notes/assumptions). -/

section
open Sys2Proof Sys2Proof.Machine

/-! ### The step and the arbiter -/

/-- A step runs the command at the front of the queue on the state with the queue's rest, and idles on an empty queue.
The queue is the model's (log 4, log 19). -/
def Obligations.StepRunsFrontCommand : Prop :=
  (∀ (s : State) (c : Instr) (cs : List Instr), s.pending = c :: cs → step s = exec c (s.withPending cs)) ∧
  (∀ s : State, s.pending = [] → step s = .next s)

/-- Every command gives a next state, in every state, and leaves the queue of commands as it is. What a command does where
its event cannot occur (log 2) or in a state that no run reaches (log 21), and the queue itself (logs 16, 19), are the
model's choice. -/
def Obligations.EveryCommandCompletes : Prop :=
  ∀ (c : Instr) (s : State), ∃ t, exec c s = .next t ∧ t.pending = s.pending

/-- R164, R165: a pending boundary first, then the oldest internal item, then the lowest-numbered sector port with an
emergency head, then SP's head, then the head of the first sector port with work after the last-served sector. A request
is an emergency head exactly when it is a GRANT_REQUEST whose parameters fit and whose class is enabled and names an
EMERGENCY template. A request in execution is never interrupted: with what reaches the timer while it executes, it does
what it does on the state that this leaves, the boundaries and items then made wait for its end, and when its own port is
declared absent its effects stand and its response is discarded (R153). That what reaches the timer takes effect ahead of
the request's own effects is the model's choice (log 28); SOFT_RESET, which empties the arbiter's lists, and PORT_STATUS,
which shows them, have their own statements. -/
def Obligations.ArbiterServesInOrder : Prop :=
  (∀ (s : State) r, s.emergencyRequest r = true ↔ r.kind = Kind.grantRequest.code ∧
    ∃ q, parseGrantRequest r.params = some q ∧ s.classes[q.cls].enabled = true ∧
      s.templates[s.classes[q.cls].template].priority = .emergency) ∧
  (∀ (s u : State) p r rest c during, s.nextItem = some (.request p) → (s.port p).rq = r :: rest →
    s.arb.discard = false → r.commands c → u = during.foldl State.onTimer s →
    let alone (ports : Ports) : State :=
      { u with ports := ports, arb := { u.arb with pendingBoundaries := 0, internal := [] } }
    ((u.port p).rq = r :: rest → r.kind ≠ Kind.softReset.code → r.kind ≠ Kind.portStatus.code →
      ∃ t, exec (c ⟨p, []⟩) (alone u.ports) = .next t ∧ exec (c ⟨p, during⟩) s = .next { t with
        arb := { t.arb with pendingBoundaries := u.arb.pendingBoundaries, internal := u.arb.internal } }) ∧
    ((s.port p).health ≠ .absent → (u.port p).health = .absent →
      ∃ t t', exec (c ⟨p, []⟩) (alone s.ports) = .next t' ∧ exec (c ⟨p, during⟩) s = .next t ∧
        t.eng = t'.eng ∧ t.op = t'.op ∧ t.timer = t'.timer ∧ t.keying = t'.keying ∧ t.items = t'.items ∧
        t.classes = t'.classes ∧ t.templates = t'.templates ∧ t.freeIndex = t'.freeIndex ∧
        (t.port p).rq = [] ∧ (t.port p).oq = [] ∧ (t.port p).owed = 0 ∧
        t.arb.executing = none ∧ t.arb.discard = false ∧
        (r.kind ≠ Kind.softReset.code →
          t.arb.pendingBoundaries = u.arb.pendingBoundaries ∧ t.arb.internal = u.arb.internal))) ∧
  ∀ s : State, s.arb.executing = none →
    (s.arb.pendingBoundaries ≠ 0 → s.nextItem = some .boundary) ∧
    (s.arb.pendingBoundaries = 0 →
      (∀ i is, s.arb.internal = i :: is → s.nextItem = some (.internal i)) ∧
      (s.arb.internal = [] →
        (∀ n r rest, (s.port (.sector n)).rq = r :: rest → s.emergencyRequest r = true →
          (∀ m : Sector, m < n → ∀ r' rest', (s.port (.sector m)).rq = r' :: rest' → s.emergencyRequest r' = false) →
          s.nextItem = some (.request (.sector n)) ∧ s.servedAfter (.sector n) = s.arb.lastServed) ∧
        ((∀ m r rest, (s.port (.sector m)).rq = r :: rest → s.emergencyRequest r = false) →
          ((s.port .site).rq ≠ [] → s.nextItem = some (.request .site)) ∧
          ((s.port .site).rq = [] →
            (∀ d : Nat, 1 ≤ d → d ≤ 4 → ∀ n : Sector, n.val = (s.arb.lastServed.val + d) % 4 →
              (s.port (.sector n)).rq ≠ [] →
              (∀ d' : Nat, 1 ≤ d' → d' < d → ∀ m : Sector, m.val = (s.arb.lastServed.val + d') % 4 →
                (s.port (.sector m)).rq = []) →
              s.nextItem = some (.request (.sector n)) ∧ s.servedAfter (.sector n) = n) ∧
            ((∀ m, (s.port (.sector m)).rq = []) → s.nextItem = none)))))

/-- The model's choice for a command that names an item the arbiter does not hand over now: nothing changes (log 2),
whatever it carries for the timer (log 28). -/
def Obligations.ItemNotHandedOverChangesNothing : Prop :=
  ∀ s : State,
    (s.nextItem ≠ some .boundary → exec .boundaryProcessing s = .next s) ∧
    (∀ n, s.nextItem ≠ some (.internal (.sectorDetach n)) → exec (.sectorDetachItem n) s = .next s) ∧
    (s.nextItem ≠ some (.internal .siteAbsence) → exec .siteAbsenceItem s = .next s) ∧
    (∀ x : Execution, s.nextItem ≠ some (.request x.port) →
      exec (.unknownKindRequest x) s = .next s ∧ ∀ (k : Kind) time, exec (k.run time x) s = .next s) ∧
    (∀ (x : Execution) r rest (k : Kind) time, (s.port x.port).rq = r :: rest → r.kind ≠ k.code →
      exec (k.run time x) s = .next s)

/-! ### The checks before a request acts -/

/-- R162, checks 2 to 4, and R186: a kind that the port may not send is answered NOT_PERMITTED whatever its parameters; a
parameter outside its range is answered BAD_PARAMETER; DETACH, LINK_REPORT, RENEW and RELEASE with fitting parameters
from the port of a disabled sector are answered SECTOR_DISABLED. Nothing else changes. -/
def Obligations.PermissionRefusals : Prop :=
  (∀ (s : State) p k r rest time, s.serving p k r rest → k.permitted p = false →
    ∃ t, exec (k.command time p) s = .next t ∧ Answered s t p r rest (.no .notPermitted) ∧ NothingElse s t) ∧
  (∀ (s : State) n k r rest, s.serving (.sector n) k r rest → s.items.sectorsEnabled.getLsbD n.val = false →
    ((k = .detach ∧ (parseHandle r.params).isSome) ∨ (k = .linkReport ∧ (parseLinkReport r.params).isSome) ∨
      ((k = .renew ∨ k = .release) ∧ (parseGrantId r.params).isSome)) →
    ∃ t, exec (k.command 0 (.sector n)) s = .next t ∧
      Answered s t (.sector n) r rest (.no .sectorDisabled) ∧ NothingElse s t) ∧
  (∀ (s : State) p k r rest time, s.serving p k r rest → k.permitted p = true →
    ((k = .attach ∧ ∃ a b c d x : Byte, r.params = [a, b, c, d, x] ∧
        ((a = 0 ∧ b = 0 ∧ c = 0 ∧ d = 0) ∨ 8 ≤ x.toNat)) ∨
      (k = .linkReport ∧ ∃ h x q : Byte, r.params = [h, x, q] ∧ (8 ≤ x.toNat ∨ 16 ≤ q.toNat)) ∨
      (k = .grantRequest ∧ ∃ h c d d1 d0 j : Byte, r.params = [h, c, d, d1, d0, j] ∧
        (16 ≤ c.toNat ∨ 2 ≤ d.toNat ∨ halfOf d1 d0 = 0 ∨ 4096 ≤ halfOf d1 d0 ∨
          (96 ≤ j.toNat ∧ j.toNat ≤ 254))) ∨
      ((k = .renew ∨ k = .release ∨ k = .grantQuery ∨ k = .forceRelease) ∧
        ∃ i : Byte, r.params = [i] ∧ 96 ≤ i.toNat) ∨
      (k = .scheduleQuery ∧ ∃ (d c : Byte) (more : List Byte), r.params = d :: c :: more ∧
        (2 ≤ d.toNat ∨ 8 ≤ c.toNat ∨ ∃ n : Byte, more = [n] ∧ 4 ≤ n.toNat)) ∨
      (k = .blockTiles ∧ ∃ d c f n o m : Byte, r.params = [d, c, f, n, o, m] ∧
        (2 ≤ d.toNat ∨ 8 ≤ c.toNat ∨ f.toNat = 0 ∨ n.toNat = 0 ∨ 16 < f.toNat + n.toNat ∨ 2 ≤ o.toNat ∨
          2 ≤ m.toNat)) ∨
      (k = .setCeiling ∧ ∃ c1 c0 : Byte, r.params = [c1, c0] ∧ 4096 ≤ halfOf c1 c0) ∨
      (k = .sectorReset ∧ ∃ n : Byte, r.params = [n] ∧ 4 ≤ n.toNat) ∨
      (k = .classWrite ∧ ∃ c x e : Byte, r.params = [c, x, e] ∧ (16 ≤ c.toNat ∨ 24 ≤ x.toNat ∨ 2 ≤ e.toNat)) ∨
      (k = .templateRead ∧ ∃ i : Byte, r.params = [i] ∧ 24 ≤ i.toNat)) →
    ∃ t, exec (k.command time p) s = .next t ∧ Answered s t p r rest (.no .badParameter) ∧ NothingElse s t)

/-- R185, whole: a parameter length that is not the kind's on the port is answered BAD_PARAMETER, whatever the values,
and nothing changes; a GRANT_REQUEST is 6 bytes with FFh for no predecessor, a SCHEDULE_QUERY 2 bytes from a sector
port and 3 from SP; a length above 24 is TOO_LONG at intake. -/
def Obligations.WrongLengthIsBadParameter : Prop :=
  (∀ (s : State) p k r rest time, s.serving p k r rest → k.permitted p = true →
    r.params.length ≠ k.paramLength p →
    ∃ t, exec (k.command time p) s = .next t ∧ Answered s t p r rest (.no .badParameter) ∧ NothingElse s t) ∧
  (∀ p, Kind.paramLength .grantRequest p = 6) ∧
  (∀ h c d d1 d0 q, parseGrantRequest [h, c, d, d1, d0, 0xFF] = some q → q.pred = none) ∧
  (∀ n, Kind.paramLength .scheduleQuery (.sector n) = 2) ∧ Kind.paramLength .scheduleQuery .site = 3 ∧
  (∀ k tag n rest, k ≠ 0xFF#8 → 24 < n.toNat → classify (k :: tag :: n :: rest) = .tooLong)

/-- R184, whole: a request of no kind of the table is answered UNKNOWN_KIND with an empty payload and nothing changes;
codes 00h and FFh make no request; intake takes the others whatever their kind; only a GRANT_REQUEST is an emergency
head; a kind of the other side's is answered NOT_PERMITTED before its parameters are examined. -/
def Obligations.UnknownKindIsAnswered : Prop :=
  (∀ (s : State) p r rest, s.nextItem = some (.request p) → (s.port p).rq = r :: rest → s.arb.discard = false →
    (∀ k : Kind, k.code ≠ r.kind) →
    ∃ t, exec (.unknownKindRequest ⟨p, []⟩) s = .next t ∧ Answered s t p r rest (.no .unknownKind) ∧ NothingElse s t) ∧
  (∀ bytes r, classify bytes = .request r → r.kind ≠ 0x00 ∧ r.kind ≠ 0xFF) ∧
  (∀ (q : Port) r, q.rq.length < 8 → q.oq.length + q.owed < 16 →
    (q.intake r).rq = q.rq ++ [r] ∧ (q.intake r).owed = q.owed + 1) ∧
  (∀ (s : State) r, s.emergencyRequest r = true → r.kind = Kind.grantRequest.code) ∧
  (∀ (s : State) p k r rest time, s.serving p k r rest → k.permitted p = false →
    ∃ t, exec (k.command time p) s = .next t ∧ Answered s t p r rest (.no .notPermitted))

/-! ### Admission -/

/-- R129, whole. -/
def Obligations.DemandNormalisation : Prop :=
  (∀ d cap q r : Nat, d = q * cap + r → r < cap →
    (r = 0 → normalise d cap .ceil = max q 1) ∧
    (r ≠ 0 → normalise d cap .ceil = q + 1) ∧
    (cap ≤ 2 * r → normalise d cap .nearest = q + 1) ∧
    (2 * r < cap → normalise d cap .nearest = max q 1)) ∧
  (∀ d cap : Nat, 1 ≤ d → 1 ≤ cap → d ≤ normalise d cap .ceil * cap) ∧
  (∀ (c : ConfigItems) (q : GrantReq) (r : Subscriber) (t : Template) k, step8 c q r t = .ok k →
    k = normalise q.demand c.capacityTable[r.range] t.rounding ∧ 1 ≤ k)

/-- R27 to R36: the first check of the eleven that fails gives the cause of the refusal, and nothing else changes;
TABLE_FULL latches GRANT_TABLE_FULL as well. -/
def Obligations.AdmissionRefusals : Prop :=
  ∀ (s : State) n r rest q, s.serving (.sector n) .grantRequest r rest → parseGrantRequest r.params = some q →
    let refused (c : Cause) : Prop :=
      ∃ t, exec (.grantRequest ⟨.sector n, []⟩) s = .next t ∧ Answered s t (.sector n) r rest (.no c) ∧ NothingElse s t
    (s.op ≠ .running → refused .notRunning) ∧
    (s.op = .running →
      (s.items.sectorsEnabled.getLsbD n.val = false → refused .sectorDisabled) ∧
      (s.items.sectorsEnabled.getLsbD n.val = true →
        (Table.get? s.eng.subs q.handle = none → refused .unknownSubscriber) ∧
        (∀ x, Table.get? s.eng.subs q.handle = some x →
          (x.state = .detaching ∨ x.home ≠ n → refused .unknownSubscriber) ∧
          (x.state ≠ .detaching → x.home = n →
            let e := s.classes[q.cls]
            let t := s.templates[e.template]
            (e.enabled = false → refused .classDisabled) ∧
            (e.enabled = true →
              (t.direction.accepts q.dir = false → refused .directionNotAllowed) ∧
              (t.direction.accepts q.dir = true →
                (x.state = .suspect → t.priority ≠ .emergency → refused .suspect) ∧
                (x.state = .attached ∨ t.priority = .emergency →
                  let counted := s.eng.countedOf x
                  let spared (i : Nat) : Prop := i ∈ s.eng.protectedBy q.pred ∨
                    ∃ g, Table.get? s.eng.grants i = some g ∧ g.prio = .emergency
                  (4 ≤ counted.length → t.priority ≠ .emergency → refused .grantLimit) ∧
                  (4 ≤ counted.length → (∀ i ∈ counted, spared i) → refused .grantLimit) ∧
                  (counted.length < 4 ∨ (t.priority = .emergency ∧ ∃ i ∈ counted, ¬ spared i) →
                    (∀ j, q.pred = some j →
                      (∀ g, Table.get? s.eng.grants j = some g →
                        g.sub ≠ q.handle ∨ g.mode = .persistent ∨ g.state = .releasing ∨
                          g.state.isWithdrawn = true ∨ g.succ ≠ none) →
                      refused .chainInvalid) ∧
                    (∀ j g, q.pred = some j → Table.get? s.eng.grants j = some g → g.sub = q.handle →
                      g.mode = .oneShot → g.state = .pending ∨ g.state = .chained ∨ g.state = .active →
                      g.succ = none → 4 ≤ (s.eng.protectedBy (some j)).length → refused .chainTooLong) ∧
                    ((∀ j, q.pred = some j → (s.eng.protectedBy (some j)).length < 4 ∧
                        ∃ g, Table.get? s.eng.grants j = some g ∧ g.sub = q.handle ∧ g.mode = .oneShot ∧
                          (g.state = .pending ∨ g.state = .chained ∨ g.state = .active) ∧ g.succ = none) →
                      let k := normalise q.demand s.items.capacityTable[x.range] t.rounding
                      (t.maxSlots < k → refused .demandTooLarge) ∧
                      (k ≤ t.maxSlots →
                        let found := (Query.mk q.dir k (guardCount s.items q.dir x.range)
                          (s.items.exclusion x.range n) (t.carriers &&& s.items.carriersEnabled) t.priority
                          (s.eng.protectedBy q.pred) s.items.priorityPreempt).search s.eng
                        (found = none → refused .noPlacement) ∧
                        (∀ spot vs, found = some (spot, vs) →
                          let load := s.eng.load - (vs.filterMap (fun v =>
                              (Table.get? s.eng.grants v).map (·.cost))).sum +
                            costOf s.items q.dir k spot.carrier x.range
                          (t.priority ≠ .emergency → s.eng.ceiling < load → refused .overBudget) ∧
                          (t.priority = .emergency ∨ load ≤ s.eng.ceiling →
                            (∀ i, i < 96 → Table.get? s.eng.grants i ≠ none) →
                            ∃ t, exec (.grantRequest ⟨.sector n, []⟩) s = .next t ∧
                              Answered s t (.sector n) r rest (.no .tableFull) ∧ SameSite s t ∧ t.eng = s.eng ∧
                              t.freeIndex = s.freeIndex ∧
                              t.events = latchEvent .grantTableFull s.events))))))))))))

/-- R4, R5, R88: the guard count, the exclusion set and the cost of a grant. R27, R35 to R39: a GRANT_REQUEST that passes
its checks with a free fit, that needs no limit victim and whose cost keeps the load under the ceiling, completes: OK
with the placement, and the new grant stands in every table as R20 and R38 give; nothing else changes. R31, R37, R58,
R91: where the laws of the tables hold, one that displaces a limit victim or victims of the search, and an EMERGENCY one
whatever the load, completes as well: what it displaces ends with PREEMPTED, the new grant stands, and a pass follows
an EMERGENCY admission, so that the load is at or under the ceiling or no candidate is left. -/
def Obligations.AdmissionEntersTheGrant : Prop :=
  (∀ (c : ConfigItems) (x : RangeClass), guardCount c .dl x = 0 ∧ guardCount c .ul x = c.guardTable[x]) ∧
  (∀ (c : ConfigItems) (x : RangeClass) (owner n : Sector),
    ((c.exclusion x owner).getLsbD n.val = true ↔ n = owner ∨ (c.edgeThreshold ≤ x.val ∧
      c.adjacency.adjacent owner n = true ∧ c.sectorsEnabled.getLsbD n.val = true))) ∧
  (∀ (c : ConfigItems) k (carrier : Carrier) (x : RangeClass),
    costOf c .dl k carrier x = k * c.carrierWeight[carrier] * c.rangeFactor[x] ∧ costOf c .ul k carrier x = 0) ∧
  (∀ (s : State) n r rest q x i k spot vs (limit : Option Nat),
    s.eng.lawful → s.eng.linksLawful →
    s.serving (.sector n) .grantRequest r rest → parseGrantRequest r.params = some q →
    s.op = .running → s.items.sectorsEnabled.getLsbD n.val = true →
    Table.get? s.eng.subs q.handle = some x → x.state ≠ .detaching → x.home = n →
    s.classes[q.cls].enabled = true →
    let t := s.templates[s.classes[q.cls].template]
    let g := guardCount s.items q.dir x.range
    let excl := s.items.exclusion x.range n
    let cost := costOf s.items q.dir k spot.carrier x.range
    let spared (v : Nat) : Prop := v ∈ s.eng.protectedBy q.pred ∨
      ∃ g, Table.get? s.eng.grants v = some g ∧ g.prio = .emergency
    t.direction.accepts q.dir = true → (x.state = .attached ∨ t.priority = .emergency) →
    ((s.eng.countedOf x).length < 4 ∧ limit = none) ∨
      ((s.eng.countedOf x).length = 4 ∧ t.priority = .emergency ∧ ∃ v a b, limit = some v ∧
        s.eng.countedOf x = a ++ v :: b ∧ ¬ spared v ∧ ∀ w ∈ b, spared w) →
    (∀ j, q.pred = some j → (s.eng.protectedBy (some j)).length < 4 ∧
      ∃ g, Table.get? s.eng.grants j = some g ∧ g.mayPrecede q.handle = true) →
    k = normalise q.demand s.items.capacityTable[x.range] t.rounding → k ≤ t.maxSlots →
    (Query.mk q.dir k g excl (t.carriers &&& s.items.carriersEnabled) t.priority (s.eng.protectedBy q.pred)
      s.items.priorityPreempt).search s.eng = some (spot, vs) →
    t.priority = .emergency ∨ s.eng.load -
      (vs.filterMap (fun v => (Table.get? s.eng.grants v).map (·.cost))).sum + cost ≤ s.eng.ceiling →
    i < 96 → Table.get? s.eng.grants i = none → (∀ j, j < i → Table.get? s.eng.grants j ≠ none) →
    let wait := if t.priority = .emergency then 1 else s.items.activationLead
    let new : Grant :=
      { state := if q.pred.isSome then .chained else .pending, owner := n, sub := q.handle, cls := q.cls,
        prio := t.priority, mode := t.mode, roundLength := t.roundLength,
        renewRequired := decide (t.mode = .persistent) && t.renewRequired,
        roundNotice := decide (t.mode = .persistent) && t.roundNotice,
        dir := q.dir, carrier := spot.carrier, first := spot.first, k := k, g := g, excl := excl, cost := cost,
        remaining := t.roundLength, renewed := false, stale := false, pred := q.pred, succ := none,
        admitted := s.timer.frameCounter }
    ∃ s' a b c, exec (.grantRequest ⟨.sector n, []⟩) s = .next s' ∧
      AnsweredWithNotices s s' (.sector n) r rest (.ok
        [byteOf i, byteOf q.dir.code, byteOf spot.carrier.val, byteOf spot.first, byteOf k, byteOf g,
          if q.pred.isSome then 2 else 1, byteOf wait, yesNoByte s.eng.hold]) ∧
      SameSite s s' ∧ s'.freeIndex = s.freeIndex ∧
      EndWith .preempted s.eng s'.eng (limit.toList ++ vs) ∧
      Table.get? s'.eng.grants i = some new ∧
      (∀ j, q.pred = some j → ∃ y, Table.get? s'.eng.grants j = some y ∧ y.succ = some i) ∧
      (∀ j y y', j ≠ i → Table.get? s.eng.grants j = some y → Table.get? s'.eng.grants j = some y' →
        y'.state = y.state ∨ (y'.state = .withdrawn .preempted ∧ j ∈ limit.toList ++ vs) ∨
        (y'.state = .withdrawn .shed ∧ t.priority = .emergency)) ∧
      (∀ d c slot m, slot ≤ 15 → new.covers d c slot m → s'.eng.holder d c slot m = some ⟨i, new.roleAt slot⟩) ∧
      s'.eng.admission = a ++ [i] ∧ a.Sublist s.eng.admission ∧
      (∃ y, Table.get? s'.eng.subs q.handle = some y ∧ y.grants = b ++ [i] ∧ b.Sublist x.grants) ∧
      s'.eng.changes = c ++ [⟨i, .activate, wait, q.pred.isSome⟩] ∧ c.Sublist s.eng.changes ∧
      (s'.eng.load ≤ s.eng.ceiling ∨ (t.priority = .emergency ∧
        ∀ j ∈ s'.eng.admission, s'.eng.isCandidate j = false)) ∧
      s'.eng.blocked = s.eng.blocked ∧ s'.eng.hold = s.eng.hold ∧ s'.eng.flush = s.eng.flush ∧
      s'.eng.ceiling = s.eng.ceiling ∧ s'.eng.tagMap = s.eng.tagMap) ∧
  ∀ (s : State) n r rest q x i k spot,
    s.serving (.sector n) .grantRequest r rest → parseGrantRequest r.params = some q →
    s.op = .running → s.items.sectorsEnabled.getLsbD n.val = true →
    Table.get? s.eng.subs q.handle = some x → x.state ≠ .detaching → x.home = n →
    s.classes[q.cls].enabled = true →
    let t := s.templates[s.classes[q.cls].template]
    let g := guardCount s.items q.dir x.range
    let excl := s.items.exclusion x.range n
    let cost := costOf s.items q.dir k spot.carrier x.range
    t.direction.accepts q.dir = true → (x.state = .attached ∨ t.priority = .emergency) →
    (s.eng.countedOf x).length < 4 →
    (∀ j, q.pred = some j → (s.eng.protectedBy (some j)).length < 4 ∧
      ∃ g, Table.get? s.eng.grants j = some g ∧ g.mayPrecede q.handle = true) →
    k = normalise q.demand s.items.capacityTable[x.range] t.rounding → k ≤ t.maxSlots →
    (Query.mk q.dir k g excl (t.carriers &&& s.items.carriersEnabled) t.priority (s.eng.protectedBy q.pred)
      s.items.priorityPreempt).search s.eng = some (spot, []) →
    s.eng.load + cost ≤ s.eng.ceiling →
    i < 96 → Table.get? s.eng.grants i = none → (∀ j, j < i → Table.get? s.eng.grants j ≠ none) →
    let wait := if t.priority = .emergency then 1 else s.items.activationLead
    let new : Grant :=
      { state := if q.pred.isSome then .chained else .pending, owner := n, sub := q.handle, cls := q.cls,
        prio := t.priority, mode := t.mode, roundLength := t.roundLength,
        renewRequired := decide (t.mode = .persistent) && t.renewRequired,
        roundNotice := decide (t.mode = .persistent) && t.roundNotice,
        dir := q.dir, carrier := spot.carrier, first := spot.first, k := k, g := g, excl := excl, cost := cost,
        remaining := t.roundLength, renewed := false, stale := false, pred := q.pred, succ := none,
        admitted := s.timer.frameCounter }
    ∃ s', exec (.grantRequest ⟨.sector n, []⟩) s = .next s' ∧
      Answered s s' (.sector n) r rest (.ok
        [byteOf i, byteOf q.dir.code, byteOf spot.carrier.val, byteOf spot.first, byteOf k, byteOf g,
          if q.pred.isSome then 2 else 1, byteOf wait, yesNoByte s.eng.hold]) ∧
      SameSite s s' ∧ s'.events = s.events ∧ s'.freeIndex = s.freeIndex ∧
      Table.get? s'.eng.grants i = some new ∧
      (∀ j, j ≠ i → Table.get? s'.eng.grants j =
        (Table.get? s.eng.grants j).map (fun y => if q.pred = some j then { y with succ := some i } else y)) ∧
      (∀ d c slot m, slot ≤ 15 →
        (new.covers d c slot m → s'.eng.holder d c slot m = some ⟨i, new.roleAt slot⟩) ∧
        (¬ new.covers d c slot m → s'.eng.holder d c slot m = s.eng.holder d c slot m)) ∧
      s'.eng.admission = s.eng.admission ++ [i] ∧
      (∀ h, Table.get? s'.eng.subs h =
        (Table.get? s.eng.subs h).map (fun y => if h = q.handle then { y with grants := y.grants ++ [i] } else y)) ∧
      s'.eng.changes = s.eng.changes ++ [⟨i, .activate, wait, q.pred.isSome⟩] ∧
      s'.eng.load = s.eng.load + cost ∧
      s'.eng.emergencyLoad = s.eng.emergencyLoad + (if t.priority = .emergency then cost else 0) ∧
      s'.eng.blocked = s.eng.blocked ∧ s'.eng.hold = s.eng.hold ∧ s'.eng.flush = s.eng.flush ∧
      s'.eng.ceiling = s.eng.ceiling ∧ s'.eng.tagMap = s.eng.tagMap

/-! ### The Placement Search -/

/-- R47 to R51, R49, R13: the result of the search lies on an enabled carrier of the mask, in slots 1 to 15, and on no
blocked tile; when some candidate is a free fit, the result is the first free fit in search order, with no victim. -/
def Obligations.SearchTakesFirstFreeFit : Prop :=
  ∀ (q : Query) (e : Engine),
    let candidate (c : Carrier) (f : Nat) : Prop := q.carriers.getLsbD c.val = true ∧ 1 ≤ f ∧ f + q.k + q.g ≤ 16
    let unblocked (c : Carrier) (f : Nat) : Prop :=
      ∀ slot, f ≤ slot → slot < f + q.k + q.g → e.isBlocked q.dir c slot = false
    let fits (c : Carrier) (f : Nat) : Prop := candidate c f ∧ unblocked c f ∧
      ∀ slot n h, f ≤ slot → slot < f + q.k + q.g → q.excl.getLsbD n.val = true →
        e.holder q.dir c slot n = some h → e.withdrawnGrant h.grant = true
    (∀ spot vs, q.search e = some (spot, vs) →
      candidate spot.carrier spot.first ∧ unblocked spot.carrier spot.first) ∧
    (∀ c f, fits c f → (∀ c' f', c' < c ∨ (c' = c ∧ f' < f) → ¬ fits c' f') →
      q.search e = some (⟨c, f⟩, []))

/-- R52 to R56, over R48 to R50 in the terms of the statement before: the candidates stand in search order; a free fit is
an open candidate whose cells are free or held by WITHDRAWN grants; a candidate qualifies when it is open and every
other holder may be preempted (R52) and is not protected (R53); its victims are the grants of the Admission List, not
WITHDRAWN, that hold a cell of its footprint (R54). With no free fit, a requester that may preempt no priority gets no
fit; another gets the qualifying candidate with the fewest victims, the first in search order among equals, and no fit
when none qualifies; and every victim is a grant, not WITHDRAWN and not protected, that the table of R52 lets the
requester preempt. -/
def Obligations.PreemptFitHasFewestVictims : Prop :=
  (∀ p on h, mayPreempt p on h = true ↔
    (p = .emergency ∧ h ≠ .emergency) ∨ (p = .priority ∧ on = true ∧ h = .background)) ∧
  (∀ (q : Query) (e : Engine),
    let unblocked (s : Spot) : Prop :=
      ∀ slot, s.first ≤ slot → slot < s.first + q.k + q.g → e.isBlocked q.dir s.carrier slot = false
    let holds (s : Spot) (i : Nat) : Prop := ∃ slot n h, s.first ≤ slot ∧ slot < s.first + q.k + q.g ∧
      q.excl.getLsbD n.val = true ∧ e.holder q.dir s.carrier slot n = some h ∧ h.grant = i
    let withdrawn (i : Nat) : Prop := ∃ g, Table.get? e.grants i = some g ∧ g.state.isWithdrawn = true
    let victim (i : Nat) : Prop := i ∉ q.prot ∧
      ∃ g, Table.get? e.grants i = some g ∧ mayPreempt q.prio q.preemptOn g.prio = true
    (∀ s : Spot, s ∈ q.spots ↔ q.carriers.getLsbD s.carrier.val = true ∧ 1 ≤ s.first ∧ s.first + q.k + q.g ≤ 16) ∧
    q.spots.Pairwise (fun a b => a.carrier < b.carrier ∨ (a.carrier = b.carrier ∧ a.first < b.first)) ∧
    (∀ s : Spot, q.freeFit e s = true ↔ unblocked s ∧ ∀ i, holds s i → withdrawn i) ∧
    (∀ s : Spot, q.qualifies e s = true ↔ unblocked s ∧ ∀ i, holds s i → withdrawn i ∨ victim i) ∧
    ∀ s : Spot, (q.victims e s).Sublist e.admission ∧
      ∀ i, i ∈ q.victims e s ↔ i ∈ e.admission ∧ holds s i ∧ ¬ withdrawn i) ∧
  (∀ (q : Query) (e : Engine), (∀ spot ∈ q.spots, q.freeFit e spot = false) →
    (q.prio = .background ∨ q.prio = .standard ∨ (q.prio = .priority ∧ q.preemptOn = false) →
      q.search e = none) ∧
    (q.prio = .emergency ∨ (q.prio = .priority ∧ q.preemptOn = true) →
      ((∀ spot ∈ q.spots, q.qualifies e spot = false) → q.search e = none) ∧
      (∀ a spot b, q.spots = a ++ spot :: b → q.qualifies e spot = true →
        (∀ x ∈ a, q.qualifies e x = true → (q.victims e spot).length < (q.victims e x).length) →
        (∀ x ∈ b, q.qualifies e x = true → (q.victims e spot).length ≤ (q.victims e x).length) →
        q.search e = some (spot, q.victims e spot)))) ∧
  (∀ (q : Query) (e : Engine) spot vs, q.search e = some (spot, vs) → ∀ v ∈ vs,
    v ∉ q.prot ∧ ∃ g, Table.get? e.grants v = some g ∧ g.state.isWithdrawn = false ∧
      mayPreempt q.prio q.preemptOn g.prio = true)

/-! ### Requests on grants -/

/-- R40, whole: an id that is FREE, or not the sector's own, is UNKNOWN_GRANT. -/
def Obligations.UnknownGrantIsRefused : Prop :=
  (∀ (s : State) n k r rest i, s.serving (.sector n) k r rest →
    k = .renew ∨ k = .release ∨ k = .grantQuery → parseGrantId r.params = some i →
    (k = .grantQuery ∨ s.items.sectorsEnabled.getLsbD n.val = true) →
    (∀ g, Table.get? s.eng.grants i = some g → g.owner ≠ n) →
    ∃ t, exec (k.command 0 (.sector n)) s = .next t ∧
      Answered s t (.sector n) r rest (.no .unknownGrant) ∧ NothingElse s t) ∧
  (∀ (s : State) k r rest i, s.serving .site k r rest → k = .grantQuery ∨ k = .forceRelease →
    parseGrantId r.params = some i → Table.get? s.eng.grants i = none →
    ∃ t, exec (k.command 0 .site) s = .next t ∧ Answered s t .site r rest (.no .unknownGrant) ∧ NothingElse s t)

/-- R41, R43: RENEW turns the renewed flag of a PERSISTENT grant on, in PENDING or ACTIVE, and is answered WRONG_STATE
otherwise. RELEASE of an ACTIVE grant makes it RELEASING with a RETIRE entry of wait 1; of a RELEASING or WITHDRAWN one
it is answered ALREADY_ENDING. Nothing else changes. -/
def Obligations.RenewAndReleaseOnAir : Prop :=
  (∀ (s : State) n r rest i g, s.serving (.sector n) .renew r rest → parseGrantId r.params = some i →
     s.items.sectorsEnabled.getLsbD n.val = true → Table.get? s.eng.grants i = some g → g.owner = n →
     (g.mode = .persistent → g.state = .pending ∨ g.state = .active →
       ∃ t, exec (.renew ⟨.sector n, []⟩) s = .next t ∧ Answered s t (.sector n) r rest (.ok []) ∧ SameSite s t ∧
         t.events = s.events ∧ t.freeIndex = s.freeIndex ∧
         t.eng = { s.eng with grants := t.eng.grants } ∧
         Table.get? t.eng.grants i = some { g with renewed := true } ∧
         ∀ j, j ≠ i → Table.get? t.eng.grants j = Table.get? s.eng.grants j) ∧
     (g.mode = .oneShot ∨ (g.state ≠ .pending ∧ g.state ≠ .active) →
       ∃ t, exec (.renew ⟨.sector n, []⟩) s = .next t ∧ Answered s t (.sector n) r rest (.no .wrongState) ∧
         NothingElse s t)) ∧
  (∀ (s : State) n r rest i g, s.serving (.sector n) .release r rest → parseGrantId r.params = some i →
     s.items.sectorsEnabled.getLsbD n.val = true → Table.get? s.eng.grants i = some g → g.owner = n →
     (g.state = .active →
       ∃ t, exec (.release ⟨.sector n, []⟩) s = .next t ∧ Answered s t (.sector n) r rest (.ok []) ∧ SameSite s t ∧
         t.events = s.events ∧ t.freeIndex = s.freeIndex ∧
         t.eng = { s.eng with grants := t.eng.grants, changes := s.eng.changes ++ [⟨i, .retire, 1, false⟩] } ∧
         Table.get? t.eng.grants i = some { g with state := .releasing } ∧
         ∀ j, j ≠ i → Table.get? t.eng.grants j = Table.get? s.eng.grants j) ∧
     (g.state = .releasing ∨ g.state.isWithdrawn = true →
       ∃ t, exec (.release ⟨.sector n, []⟩) s = .next t ∧ Answered s t (.sector n) r rest (.no .alreadyEnding) ∧
         NothingElse s t))

/-- R42, R24: RELEASE of a PENDING or CHAINED grant frees its record, its cells, its cost, its entry and its places in
the lists, places no notice, and closes the chain around it up, said of a load at or under the ceiling afterwards, so
that no pass follows. R95: whatever the load, where the laws of the tables hold, a pass follows that leaves the load at
or under the ceiling or no candidate: an on-air grant it ends is WITHDRAWN with SHED, and with the load above the ceiling
and a candidate counted the grants that ended are more than the one released. -/
def Obligations.ReleaseOfWaitingGrantClosesChain : Prop :=
  (∀ (s : State) n r rest i g, s.serving (.sector n) .release r rest → parseGrantId r.params = some i →
    s.items.sectorsEnabled.getLsbD n.val = true → Table.get? s.eng.grants i = some g → g.owner = n →
    g.state = .pending ∨ g.state = .chained → s.eng.lawful → s.eng.linksLawful →
    ∃ t, exec (.release ⟨.sector n, []⟩) s = .next t ∧
      AnsweredWithNotices s t (.sector n) r rest (.ok []) ∧ SameSite s t ∧ t.freeIndex = s.freeIndex ∧
      Table.get? t.eng.grants i = none ∧ t.eng.shedLawful ∧
      (∀ j y y', Table.get? s.eng.grants j = some y → Table.get? t.eng.grants j = some y' →
        y'.state = y.state ∨ (y.state.keyed = true ∧ y'.state = .withdrawn .shed) ∨
        (y.state = .chained ∧ y'.state = .pending ∧ g.succ = some j)) ∧
      (s.eng.ceiling < s.eng.load - g.cost →
        ((∃ j ∈ s.eng.admission, j ≠ i ∧ ∃ y, Table.get? s.eng.grants j = some y ∧ y.state.counted = true ∧
          y.prio ≠ .emergency ∧ ∀ m ∈ chainDown s.eng.grants s.eng.grants.length y.succ, m ≠ i →
            ∀ x, Table.get? s.eng.grants m = some x → x.prio ≠ .emergency) ↔
          ∃ j ∈ s.eng.endedBy t.eng, j ≠ i)) ∧
      (s.eng.load - g.cost ≤ s.eng.ceiling → s.eng.endedBy t.eng = [i]) ∧
      t.eng.blocked = s.eng.blocked ∧ t.eng.hold = s.eng.hold ∧ t.eng.flush = s.eng.flush ∧
      t.eng.ceiling = s.eng.ceiling ∧ t.eng.tagMap = s.eng.tagMap) ∧
  ∀ (s : State) n r rest i g, s.serving (.sector n) .release r rest → parseGrantId r.params = some i →
    s.items.sectorsEnabled.getLsbD n.val = true → Table.get? s.eng.grants i = some g → g.owner = n →
    g.state = .pending ∨ g.state = .chained → s.eng.load - g.cost ≤ s.eng.ceiling →
    (∀ x, Table.get? s.eng.subs g.sub = some x → x.state ≠ .detaching) →
    ∃ t, exec (.release ⟨.sector n, []⟩) s = .next t ∧ Answered s t (.sector n) r rest (.ok []) ∧ SameSite s t ∧
      t.events = s.events ∧ t.freeIndex = s.freeIndex ∧
      Table.get? t.eng.grants i = none ∧
      (g.state = .pending → ∀ j, j ≠ i → Table.get? t.eng.grants j = (Table.get? s.eng.grants j).map (fun y =>
        if g.succ = some j then { y with pred := none, state := if y.state = .chained then .pending else y.state }
        else y)) ∧
      (g.state = .chained → g.pred ≠ g.succ → ∀ j, j ≠ i →
        Table.get? t.eng.grants j = (Table.get? s.eng.grants j).map (fun y =>
          if g.pred = some j then { y with succ := g.succ }
          else if g.succ = some j then { y with pred := g.pred } else y)) ∧
      t.eng.cells = s.eng.cells.filter (fun c => c.2.grant != i) ∧
      t.eng.admission = s.eng.admission.filter (fun j => j != i) ∧
      t.eng.changes = (s.eng.changes.filter (fun x => x.id != i)).map (fun x =>
        if g.state = .pending ∧ g.succ = some x.id then { x with mark := false } else x) ∧
      (∀ h, Table.get? t.eng.subs h = (Table.get? s.eng.subs h).map (fun y =>
        if h = g.sub then { y with grants := y.grants.filter (fun j => j != i) } else y)) ∧
      t.eng.load = s.eng.load - g.cost ∧
      t.eng.emergencyLoad = (if g.prio = .emergency then s.eng.emergencyLoad - g.cost else s.eng.emergencyLoad) ∧
      t.eng.blocked = s.eng.blocked ∧ t.eng.hold = s.eng.hold ∧ t.eng.flush = s.eng.flush ∧
      t.eng.ceiling = s.eng.ceiling ∧ t.eng.tagMap = s.eng.tagMap

/-- R44, R115, R18 (with R187 and 11.3): the queries answer from the tables as they stand and change nothing. A grant
is visible to its owner and to SP, a subscriber to its home sector and to SP; the schedule is the carrier's column. The
entry byte is said of a grant with no entry or with one, as R66 gives; its bit 3, in no field of the layout, is 0 by the
model's choice (log 27). -/
def Obligations.QueriesAnswerFromTheTables : Prop :=
  (∀ (s : State) p r rest i g, s.serving p .grantQuery r rest → parseGrantId r.params = some i →
    Table.get? s.eng.grants i = some g → p = .site ∨ p = .sector g.owner →
    let one (b : Bool) (v : Nat) : Nat := if b then v else 0
    let id (x : Option Nat) : Byte := match x with | none => 0xFF | some j => byteOf j
    let flags := one (g.mode = .persistent) 1 + one (g.dir = .ul) 2 + one g.renewRequired 4 + one g.roundNotice 8 +
      one g.renewed 16 + one g.stale 32
    ∃ t ended entry, exec (.grantQuery ⟨p, []⟩) s = .next t ∧ NothingElse s t ∧
      Answered s t p r rest (.ok (
        [byteOf i, byteOf g.state.code, byteOf g.owner.val, byteOf g.sub, byteOf g.cls.val, byteOf g.prio.code,
         byteOf flags, byteOf g.carrier.val, byteOf g.first, byteOf g.k, byteOf g.g, byteOf g.excl.toNat] ++
        halfBytes g.cost ++ [byteOf g.roundLength, byteOf g.remaining, id g.pred, id g.succ] ++
        halfBytes g.admitted.toNat ++ [ended, entry])) ∧
      (∀ c, g.state = .withdrawn c → ended = byteOf c.code) ∧ (g.state.isWithdrawn = false → ended = 0xFF) ∧
      ((∀ x ∈ s.eng.changes, x.id ≠ i) → entry = 0) ∧
      (∀ x ∈ s.eng.changes, x.id = i → (∀ y ∈ s.eng.changes, y.id = i → y = x) → x.wait ≤ 2 →
        entry = byteOf (x.wait + one x.mark 4 + x.kind.code * 16))) ∧
  (∀ (s : State) p r rest h, s.serving p .subscriberQuery r rest → parseHandle r.params = some h →
    (∀ x, Table.get? s.eng.subs h = some x → p = .site ∨ p = .sector x.home →
      ∃ t, exec (.subscriberQuery ⟨p, []⟩) s = .next t ∧ NothingElse s t ∧
        Answered s t p r rest (.ok ([byteOf h, byteOf x.state.code] ++ tagBytes x.tag ++
          [byteOf x.home.val, byteOf x.range.val, byteOf x.quality.val, byteOf x.run, byteOf x.grants.length] ++
          x.grants.map (fun i => byteOf i ||| (if s.eng.withdrawnGrant i then 0x80 else 0))))) ∧
    ((∀ x, Table.get? s.eng.subs h = some x → p ≠ .site ∧ p ≠ .sector x.home) →
      ∃ t, exec (.subscriberQuery ⟨p, []⟩) s = .next t ∧ NothingElse s t ∧
        Answered s t p r rest (.no .unknownSubscriber))) ∧
  (∀ (s : State) p r rest d c n, s.serving p .scheduleQuery r rest → parseSchedule p r.params = some (d, c, n) →
    (∀ m, p = .sector m → n = m) ∧
    ∃ t, exec (.scheduleQuery ⟨p, []⟩) s = .next t ∧ NothingElse s t ∧
      ∃ payload, Answered s t p r rest (.ok payload) ∧ payload.length = 22 ∧
        payload.take 5 = [byteOf n.val, byteOf d.code, byteOf c.val] ++ halfBytes s.timer.frameCounter.toNat ∧
        (∀ slot, 1 ≤ slot → slot ≤ 15 → payload[4 + slot]? = some (match s.eng.holder d c slot n with
          | none => 0x7F
          | some h => byteOf h.grant ||| (if h.role = .guard then 0x80 else 0))) ∧
        (∀ slot, 1 ≤ slot → slot ≤ 15 → ∀ hi lo, payload.drop 20 = [hi, lo] →
          (halfOf hi lo).testBit slot = s.eng.isBlocked d c slot))

/-- R45, R24, R25: FORCE_RELEASE of a grant without a successor that leaves the load at or under the ceiling. A
PENDING or CHAINED grant ends at once and its owner is told; an ACTIVE or RELEASING one becomes WITHDRAWN with FORCED,
keeps its cells and places no notice; a WITHDRAWN one is ALREADY_ENDING. -/
def Obligations.ForceReleaseOfOneGrant : Prop :=
  ∀ (s : State) r rest i g, s.serving .site .forceRelease r rest → parseGrantId r.params = some i →
    Table.get? s.eng.grants i = some g →
    (g.state.isWithdrawn = true →
      ∃ t, exec (.forceRelease ⟨.site, []⟩) s = .next t ∧ Answered s t .site r rest (.no .alreadyEnding) ∧
        NothingElse s t) ∧
    (g.succ = none → s.eng.load - g.cost ≤ s.eng.ceiling →
      (g.state = .active ∨ g.state = .releasing →
        ∃ t, exec (.forceRelease ⟨.site, []⟩) s = .next t ∧ Answered s t .site r rest (.ok [1]) ∧ SameSite s t ∧
          t.events = s.events ∧ t.freeIndex = s.freeIndex ∧
          t.eng = { s.eng with
            grants := t.eng.grants
            changes := s.eng.changes.filter (fun x => x.id != i)
            load := s.eng.load - g.cost
            emergencyLoad := if g.prio = .emergency then s.eng.emergencyLoad - g.cost else s.eng.emergencyLoad } ∧
          Table.get? t.eng.grants i = some { g with state := .withdrawn .forced } ∧
          ∀ j, j ≠ i → Table.get? t.eng.grants j = Table.get? s.eng.grants j) ∧
      (g.state = .pending ∨ g.state = .chained →
        (∀ x, Table.get? s.eng.subs g.sub = some x → x.state ≠ .detaching) →
        ∃ t, exec (.forceRelease ⟨.site, []⟩) s = .next t ∧ SameSite s t ∧ t.freeIndex = s.freeIndex ∧
          t.events = (s.placeNotice g.owner (.grantEnded i .forced)).events ∧
          (∀ n, t.port (.sector n) = (s.placeNotice g.owner (.grantEnded i .forced)).port (.sector n)) ∧
          t.port .site = { s.port .site with
            rq := rest, oq := (s.port .site).oq ++ [r.answer (.ok [1])], owed := (s.port .site).owed - 1 } ∧
          t.arb = { s.arb with executing := none } ∧
          t.eng = { s.eng with
            grants := t.eng.grants
            subs := t.eng.subs
            cells := s.eng.cells.filter (fun c => c.2.grant != i)
            admission := s.eng.admission.filter (fun j => j != i)
            changes := s.eng.changes.filter (fun x => x.id != i)
            load := s.eng.load - g.cost
            emergencyLoad := if g.prio = .emergency then s.eng.emergencyLoad - g.cost else s.eng.emergencyLoad } ∧
          Table.get? t.eng.grants i = none ∧
          (∀ j, j ≠ i → Table.get? t.eng.grants j = (Table.get? s.eng.grants j).map (fun y =>
            if g.pred = some j then { y with succ := none } else y)) ∧
          ∀ h, Table.get? t.eng.subs h = (Table.get? s.eng.subs h).map (fun y =>
            if h = g.sub then { y with grants := y.grants.filter (fun j => j != i) } else y)))

/-- R24, R25, R45: an end that is not normal breaks the chain below the grant: with FORCE_RELEASE, the named grant has
ended and every grant reached from it by successor links has become FREE. The premise on the predecessor holds in every
state whose chains are as R32 gives. Where the laws of the tables hold, the named grant ends with FORCED, and with the
load at or under the ceiling the number answered is that of the grants that ended (log 24 leaves it free otherwise). With
the load at or under the ceiling every other grant keeps its record, but for the successor link of the named grant's
predecessor, which is cleared. R95: the load is then at or under the ceiling, or no candidate is left. -/
def Obligations.ForcedEndBreaksTheChain : Prop :=
  ∀ (s : State) r rest i g, s.serving .site .forceRelease r rest → parseGrantId r.params = some i →
    Table.get? s.eng.grants i = some g → g.state.isWithdrawn = false →
    (∀ p, g.pred = some p → p ∉ chainDown s.eng.grants s.eng.grants.length g.succ) →
    ∃ t n, exec (.forceRelease ⟨.site, []⟩) s = .next t ∧ AnsweredWithNotices s t .site r rest (.ok [byteOf n]) ∧
      SameSite s t ∧ t.eng.hasEnded i ∧
      (∀ j ∈ chainDown s.eng.grants s.eng.grants.length g.succ, Table.get? t.eng.grants j = none) ∧
      (s.eng.lawful → s.eng.linksLawful → EndWith .forced s.eng t.eng [i] ∧ t.eng.shedLawful ∧
        (s.eng.load ≤ s.eng.ceiling → n = (s.eng.endedBy t.eng).length ∧
          ∀ j y, Table.get? s.eng.grants j = some y →
            j ∉ chainDown s.eng.grants s.eng.grants.length (some i) →
            Table.get? t.eng.grants j = some (if g.pred = some j then { y with succ := none } else y))) ∧
      t.eng.blocked = s.eng.blocked ∧ t.eng.hold = s.eng.hold ∧ t.eng.flush = s.eng.flush ∧
      t.eng.ceiling = s.eng.ceiling ∧ t.eng.tagMap = s.eng.tagMap

/-! ### The Resource Grid -/

/-- R14 to R17: BLOCK_TILES sets or clears the flags of the named tiles and of no other; GENTLE is refused with the
first holder met, and then changes nothing; FORCE ends every grant that holds a named cell, where the laws of the tables hold
with BLOCKED, the load is then at or under the ceiling or no candidate is left (R95), and with the load at or under the
ceiling before, it answers the number of grants that ended (log 24 leaves it free otherwise), and every grant that is no
victim and is reached from none by successor links keeps its record, but for the link to a victim, which is cleared. -/
def Obligations.BlockTiles : Prop :=
  ∀ (s : State) r rest q, s.serving .site .blockTiles r rest → parseBlock r.params = some q →
    let named (slot : Nat) : Prop := q.first ≤ slot ∧ slot < q.first + q.count
    let busy (slot : Nat) (n : Sector) (i : Nat) : Prop := named slot ∧
      ∃ h, s.eng.holder q.dir q.carrier slot n = some h ∧ h.grant = i ∧ s.eng.withdrawnGrant i = false
    let flags (e : Engine) : Prop := ∀ d c slot, slot ≤ 15 →
      ((d = q.dir ∧ c = q.carrier ∧ named slot) → e.isBlocked d c slot = q.on) ∧
      (¬ (d = q.dir ∧ c = q.carrier ∧ named slot) → e.isBlocked d c slot = s.eng.isBlocked d c slot)
    let changed : Byte := byteOf ((slotsOf q.first q.count).countP (fun slot =>
      s.eng.isBlocked q.dir q.carrier slot != q.on))
    (q.on = false ∨ (q.mode = .gentle ∧ ∀ slot n i, ¬ busy slot n i) →
      ∃ t, exec (.blockTiles ⟨.site, []⟩) s = .next t ∧ Answered s t .site r rest (.ok [changed, 0]) ∧ SameSite s t ∧
        t.events = s.events ∧ t.freeIndex = s.freeIndex ∧
        t.eng = { s.eng with blocked := t.eng.blocked } ∧ flags t.eng) ∧
    (q.on = true → q.mode = .gentle → ∀ slot n i, busy slot n i →
      (∀ slot' n' i', slot' < slot ∨ (slot' = slot ∧ n' < n) → ¬ busy slot' n' i') →
      ∃ t, exec (.blockTiles ⟨.site, []⟩) s = .next t ∧ Answered s t .site r rest ⟨.tileInUse, [byteOf i]⟩ ∧
        NothingElse s t) ∧
    (q.on = true → q.mode = .force →
      ∃ t n, exec (.blockTiles ⟨.site, []⟩) s = .next t ∧
        AnsweredWithNotices s t .site r rest (.ok [changed, byteOf n]) ∧ SameSite s t ∧ flags t.eng ∧
        (∀ slot n i, busy slot n i → i ∈ s.eng.admission → t.eng.hasEnded i) ∧
        (s.eng.lawful → s.eng.linksLawful → (∀ slot n i, busy slot n i → EndWith .blocked s.eng t.eng [i]) ∧
          t.eng.shedLawful ∧
          (s.eng.load ≤ s.eng.ceiling → n = (s.eng.endedBy t.eng).length ∧
            ∀ j y, Table.get? s.eng.grants j = some y →
              (∀ slot m i, busy slot m i → j ∉ chainDown s.eng.grants s.eng.grants.length (some i)) →
              ((∃ slot m i, busy slot m i ∧ y.succ = some i) →
                Table.get? t.eng.grants j = some { y with succ := none }) ∧
              ((∀ slot m i, busy slot m i → y.succ ≠ some i) → Table.get? t.eng.grants j = some y))) ∧
        t.eng.hold = s.eng.hold ∧ t.eng.flush = s.eng.flush ∧ t.eng.ceiling = s.eng.ceiling ∧
        t.eng.tagMap = s.eng.tagMap)

/-! ### Frame boundaries -/

/-- R73, R76, R77, R83: the processing of a boundary. The pending count falls by 1; afterwards no grant is WITHDRAWN and
flush is off; the Air Map of each carrier is the union of the body slots of its ACTIVE and RELEASING downlink grants;
only notices reach the ports. The premise is a part of R23. Where the laws of the tables hold, the notices are, in this
order, those of Stage A and of Stage B in Admission List order, and those of Stage C, one for each grant it activates,
with the frame counter value of this boundary, and one for each it retires (R75, R79, R81, R86); and a DETACHING record
is FREE afterwards, while every other record keeps all but the grants of its list that the boundary made FREE (R81,
R110). -/
def Obligations.BoundaryRetiresAndKeys : Prop :=
  ∀ s : State, s.nextItem = some .boundary →
    (∀ x ∈ s.eng.grants, x.2.state.isWithdrawn = true → x.1 ∈ s.eng.admission) →
    ∃ t, exec .boundaryProcessing s = .next t ∧
      (∀ i g, Table.get? t.eng.grants i = some g → g.state.isWithdrawn = false) ∧
      (∀ (c : Carrier) slot, slot < 16 → (t.keying.airMap[c].getLsbD slot = true ↔
        ∃ x ∈ t.eng.grants, (x.2.state = .active ∨ x.2.state = .releasing) ∧ x.2.dir = .dl ∧ x.2.carrier = c ∧
          x.2.first ≤ slot ∧ slot < x.2.first + x.2.k)) ∧
      t.eng.flush = false ∧ t.eng.hold = s.eng.hold ∧ t.eng.ceiling = s.eng.ceiling ∧
      t.eng.blocked = s.eng.blocked ∧
      t.arb = { s.arb with pendingBoundaries := s.arb.pendingBoundaries - 1 } ∧
      (∀ n, PortNoticed (s.port (.sector n)) (t.port (.sector n))) ∧ t.port .site = s.port .site ∧
      t.pending = s.pending ∧ t.items = s.items ∧ t.classes = s.classes ∧ t.templates = s.templates ∧
      t.freeIndex = s.freeIndex ∧
      (s.op ≠ .draining → t.op = s.op ∧ t.timer = s.timer ∧ t.keying.keys = s.keying.keys ∧
        t.eng.tagMap = s.eng.tagMap) ∧
      (s.eng.lawful → s.eng.linksLawful →
        let said (f : Nat → Grant → Option (Sector × Notice)) : List (Sector × Notice) :=
          s.eng.admission.filterMap (fun i => (Table.get? s.eng.grants i).bind (f i))
        let stageA := said (fun i g => if g.state.keyed then g.countNotice i else none)
        let stageB := said (fun i g => g.retireNotice i)
        let frame : Half := s.timer.frameCounter - BitVec.ofNat 16 (s.arb.pendingBoundaries - 1)
        ∃ stageC, stageC.Nodup ∧
          (∀ n, t.port (.sector n) = (s.placeNotices (stageA ++ stageB ++ stageC)).port (.sector n)) ∧
          (s.op ≠ .draining → t.events = (s.placeNotices (stageA ++ stageB ++ stageC)).events) ∧
          ∀ y, y ∈ stageC ↔
            (∃ i g g', Table.get? s.eng.grants i = some g ∧ g.state.offAir = true ∧
              Table.get? t.eng.grants i = some g' ∧ g'.state = .active ∧ y = (g.owner, .grantActive i frame)) ∨
            (∃ i g, Table.get? s.eng.grants i = some g ∧ g.state = .releasing ∧ g.countEnd = none ∧
              Table.get? t.eng.grants i = none ∧ y = (g.owner, .grantEnded i .released))) ∧
      (s.eng.lawful → s.eng.linksLawful → s.op ≠ .draining → ∀ h,
        Table.get? t.eng.subs h = (Table.get? s.eng.subs h).bind (fun x =>
          if x.state = .detaching then none
          else some { x with grants := x.grants.filter (fun i => (Table.get? t.eng.grants i).isSome) }))

/-- R74, R75: Stage A. A ONE_SHOT grant on air whose count runs out becomes FREE, and so does a PERSISTENT one whose
round ends without a required renewal or while it is stale; otherwise an ACTIVE grant loses one frame, or begins a new
round, and is otherwise unchanged. The premises on the lists hold in every state that R23, R32 and R66 describe. A
RELEASING grant is counted in the same way: where the laws of the tables hold, one that stays (its RETIRE entry was not
applied, which the next statement says) has lost one frame or begun a new round. -/
def Obligations.OnAirGrantsAreCounted : Prop :=
  ∀ (s : State) i g, s.nextItem = some .boundary → Table.get? s.eng.grants i = some g → i ∈ s.eng.admission →
    g.state = .active ∨ g.state = .releasing →
    ∃ t, exec .boundaryProcessing s = .next t ∧
      (g.remaining ≤ 1 → g.mode = .oneShot → Table.get? t.eng.grants i = none) ∧
      (g.remaining ≤ 1 → g.mode = .persistent → (g.renewRequired = true ∧ g.renewed = false) ∨ g.stale = true →
        Table.get? t.eng.grants i = none) ∧
      (g.state = .active → s.eng.admission.Nodup → (∀ x ∈ s.eng.changes, x.id ≠ i) →
        (∀ x ∈ s.eng.grants, x.2.succ ≠ some i) →
        (1 < g.remaining → Table.get? t.eng.grants i = some { g with remaining := g.remaining - 1 }) ∧
        (g.remaining ≤ 1 → g.mode = .persistent → g.renewRequired = false ∨ g.renewed = true → g.stale = false →
          Table.get? t.eng.grants i = some { g with remaining := g.roundLength, renewed := false })) ∧
      (g.state = .releasing → s.eng.lawful → s.eng.linksLawful → ∀ g', Table.get? t.eng.grants i = some g' →
        (1 < g.remaining → g' = { g with remaining := g.remaining - 1 }) ∧
        (g.remaining ≤ 1 → g' = { g with remaining := g.roundLength, renewed := false }))

/-- R72, R77 to R79: Stage C on the unmarked ACTIVATE entry of a PENDING grant. A flush applies it whatever its wait;
with HOLD off it is applied when its wait comes to 0; under HOLD that holds for EMERGENCY grants alone, and any other
grant's entry stands frozen. R80, R82: where the laws of the tables hold, a RETIRE entry is applied in the same cases,
and its grant becomes FREE; and the successor of a grant that ends normally at this boundary becomes PENDING with its
entry's mark off, and ACTIVE when its entry is applied, while any other successor stays CHAINED. -/
def Obligations.MatureEntriesActivate : Prop :=
  (∀ (s : State) i g wait, s.nextItem = some .boundary → s.eng.lawful → s.eng.linksLawful →
    Table.get? s.eng.grants i = some g → g.state = .releasing → (⟨i, .retire, wait, false⟩ : Entry) ∈ s.eng.changes →
    let em := decide (g.prio = .emergency)
    ∃ t, exec .boundaryProcessing s = .next t ∧
      (s.eng.applies em wait ∨ g.countEnd ≠ none →
        Table.get? t.eng.grants i = none ∧ ∀ x ∈ t.eng.changes, x.id ≠ i) ∧
      (¬ s.eng.applies em wait → g.countEnd = none →
        (∃ g', Table.get? t.eng.grants i = some g' ∧ g'.state = .releasing) ∧
        (⟨i, .retire, s.eng.nextWait em wait, false⟩ : Entry) ∈ t.eng.changes)) ∧
  (∀ (s : State) i g j y wait, s.nextItem = some .boundary → s.eng.lawful → s.eng.linksLawful →
    Table.get? s.eng.grants i = some g → g.succ = some j → Table.get? s.eng.grants j = some y →
    (⟨j, .activate, wait, true⟩ : Entry) ∈ s.eng.changes →
    let em := decide (y.prio = .emergency)
    let ends : Prop := g.state.keyed = true ∧ (g.countEnd ≠ none ∨ (g.state = .releasing ∧
      ∃ w, (⟨i, .retire, w, false⟩ : Entry) ∈ s.eng.changes ∧ s.eng.applies (decide (g.prio = .emergency)) w))
    ∃ t, exec .boundaryProcessing s = .next t ∧
      (ends → s.eng.applies em wait →
        Table.get? t.eng.grants j = some { y with pred := none, state := .active } ∧
        ∀ x ∈ t.eng.changes, x.id ≠ j) ∧
      (ends → ¬ s.eng.applies em wait →
        Table.get? t.eng.grants j = some { y with pred := none, state := .pending } ∧
        (⟨j, .activate, s.eng.nextWait em wait, false⟩ : Entry) ∈ t.eng.changes) ∧
      (¬ ends → Table.get? t.eng.grants j = some y ∧
        (⟨j, .activate, s.eng.nextWait em wait, true⟩ : Entry) ∈ t.eng.changes)) ∧
  ∀ (s : State) i g wait, s.nextItem = some .boundary → Table.get? s.eng.grants i = some g → g.state = .pending →
    (⟨i, .activate, wait, false⟩ : Entry) ∈ s.eng.changes →
    (∀ x ∈ s.eng.changes, x.id = i → x = ⟨i, .activate, wait, false⟩) →
    (∀ x ∈ s.eng.grants, x.2.succ ≠ some i) →
    ∃ t, exec .boundaryProcessing s = .next t ∧
      (s.eng.flush = true ∨ ((s.eng.hold = false ∨ g.prio = .emergency) ∧ wait ≤ 1) →
        Table.get? t.eng.grants i = some { g with state := .active } ∧ ∀ x ∈ t.eng.changes, x.id ≠ i) ∧
      (s.eng.flush = false → s.eng.hold = true → g.prio ≠ .emergency →
        Table.get? t.eng.grants i = some g ∧ (⟨i, .activate, wait, false⟩ : Entry) ∈ t.eng.changes) ∧
      (s.eng.flush = false → s.eng.hold = false → 2 ≤ wait →
        Table.get? t.eng.grants i = some g ∧ (⟨i, .activate, wait - 1, false⟩ : Entry) ∈ t.eng.changes)

/-- R69 to R71: HOLD, UNHOLD and the internal item of the site port's absence change the two flags and nothing more. -/
def Obligations.HoldAndFlush : Prop :=
  (∀ (s : State) r rest, s.serving .site .hold r rest → r.params = [] →
    ∃ t, exec (.hold ⟨.site, []⟩) s = .next t ∧ SameSite s t ∧ t.events = s.events ∧ t.freeIndex = s.freeIndex ∧
      (s.op ≠ .running → Answered s t .site r rest (.no .notRunning) ∧ t.eng = s.eng) ∧
      (s.op = .running → Answered s t .site r rest (.ok []) ∧
        (s.eng.hold = true → t.eng = s.eng) ∧
        (s.eng.hold = false → t.eng = { s.eng with hold := true, flush := false }))) ∧
  (∀ (s : State) r rest, s.serving .site .unhold r rest → r.params = [] →
    ∃ t, exec (.unhold ⟨.site, []⟩) s = .next t ∧ SameSite s t ∧ t.events = s.events ∧ t.freeIndex = s.freeIndex ∧
      Answered s t .site r rest (.ok []) ∧
      (s.eng.hold = true → t.eng = { s.eng with hold := false, flush := true }) ∧
      (s.eng.hold = false → t.eng = s.eng)) ∧
  (∀ s : State, s.nextItem = some (.internal .siteAbsence) →
    ∃ t, exec .siteAbsenceItem s = .next t ∧ SameSite s t ∧ t.events = s.events ∧ t.freeIndex = s.freeIndex ∧
      t.ports = s.ports ∧ t.arb = { s.arb with internal := s.arb.internal.tail } ∧
      (s.eng.hold = true → t.eng = { s.eng with hold := false, flush := true }) ∧
      (s.eng.hold = false → t.eng = s.eng))

/-- R84, R171: in DRAINING, when every grant is WITHDRAWN, the next boundary completes the drain. R172: a boundary that
is pending in STANDBY, where no grant is in use, is processed and changes nothing but the pending count and flush. That
the stop of the timer leaves FMARK as it was is read from R142 and R146 (log 22). -/
def Obligations.BoundaryCompletesTheDrain : Prop :=
  (∀ s : State, s.nextItem = some .boundary → s.op = .standby → s.eng.grants = [] → s.eng.changes = [] →
    s.keying.airMap = emptyAirMap →
    exec .boundaryProcessing s = .next { s with
      arb := { s.arb with pendingBoundaries := s.arb.pendingBoundaries - 1 }, eng := { s.eng with flush := false } }) ∧
  ∀ s : State, s.nextItem = some .boundary → s.op = .draining →
    (∀ x ∈ s.eng.grants, x.2.state.isWithdrawn = true ∧ x.1 ∈ s.eng.admission) →
    ∃ t, exec .boundaryProcessing s = .next t ∧ t.op = .standby ∧ t.eng.grants = [] ∧ t.eng.subs = [] ∧
      t.eng.tagMap = [] ∧ Event.isIn .standbyReached t.events = true ∧
      t.timer = { s.timer with state := .stopped, missed := 0, lostMark := false, slot := none } ∧
      t.keying = ⟨emptyAirMap, 0⟩ ∧
      (∀ n, PortNoticed (s.port (.sector n)) (t.port (.sector n))) ∧ t.port .site = s.port .site ∧
      t.arb = { s.arb with pendingBoundaries := s.arb.pendingBoundaries - 1 } ∧
      t.items = s.items ∧ t.classes = s.classes ∧ t.templates = s.templates ∧
      t.eng.blocked = s.eng.blocked ∧ t.eng.ceiling = s.eng.ceiling ∧ t.pending = s.pending

/-! ### The Load Account -/

/-- R97, R93, R95: SET_CEILING writes the ceiling and sheds until the load is at or under it or no candidate is left;
with the load at or under it already, nothing else changes. The engine's tables, the notices and the number answered
are those of one pass from the new ceiling, whose order and stopping the next statement gives. A grant that it
withdraws has the cause SHED, and where the laws of the tables hold the number answered is that of the grants that
ended. A pass latches BUDGET_SHED when it ended a grant, and EMERGENCY_OVER_CEILING when the load is above the ceiling
after it (R96); with the ceiling in force named again, the load above it and no candidate counted, the event is a free
value (log 12). -/
def Obligations.SetCeilingSheds : Prop :=
  ∀ (s : State) r rest c, s.serving .site .setCeiling r rest → parseCeiling r.params = some c →
    ∃ t n, exec (.setCeiling ⟨.site, []⟩) s = .next t ∧
      AnsweredWithNotices s t .site r rest (.ok (halfBytes t.eng.load ++ [byteOf n])) ∧ SameSite s t ∧
      (let pass := (Work.of { s.eng with ceiling := c }).shedPass
       t.eng = pass.eng ∧ n = pass.ended ∧
       AnsweredAfter s t .site r rest (.ok (halfBytes t.eng.load ++ [byteOf n])) pass.out) ∧
      t.eng.ceiling = c ∧
      (t.eng.load ≤ c ∨ ∀ i ∈ t.eng.admission, ∀ g, Table.get? t.eng.grants i = some g →
        g.state.isWithdrawn = true ∨ g.prio = .emergency ∨
        ∃ j ∈ chainDown t.eng.grants t.eng.grants.length g.succ,
          ∃ x, Table.get? t.eng.grants j = some x ∧ x.prio = .emergency) ∧
      (∀ i g g', Table.get? s.eng.grants i = some g → Table.get? t.eng.grants i = some g' →
        g'.state = g.state ∨ g'.state = .withdrawn .shed) ∧
      (s.eng.lawful → s.eng.linksLawful → n = (s.eng.endedBy t.eng).length) ∧
      (c < s.eng.load → (c ≠ s.eng.ceiling ∨ ∃ i ∈ s.eng.admission, s.eng.isCandidate i = true) →
        (Event.isIn .budgetShed t.events = true ↔ Event.isIn .budgetShed s.events = true ∨
          ∃ i ∈ s.eng.admission, s.eng.isCandidate i = true) ∧
        (Event.isIn .emergencyOverCeiling t.events = true ↔
          Event.isIn .emergencyOverCeiling s.events = true ∨ c < t.eng.load)) ∧
      t.eng.blocked = s.eng.blocked ∧ t.eng.hold = s.eng.hold ∧ t.eng.flush = s.eng.flush ∧
      t.eng.tagMap = s.eng.tagMap ∧
      (s.eng.load ≤ c → n = 0 ∧ t.events = s.events ∧ t.freeIndex = s.freeIndex ∧
        t.eng = { s.eng with ceiling := c })

/-- R92, R93: a candidate is a counted grant that is not EMERGENCY and stands ahead of no EMERGENCY grant; the next
victim is a candidate of the lowest priority present among the candidates, and the newest of that priority; a pass ends
the victims one after another while the load is above the ceiling. R96: the events that every pass raises. -/
def Obligations.NextVictimIsLowestThenNewest : Prop :=
  (∀ (e : Engine) i, e.isCandidate i = true ↔ ∃ g, Table.get? e.grants i = some g ∧ g.state.isWithdrawn = false ∧
    g.prio ≠ .emergency ∧ ∀ j ∈ chainDown e.grants e.grants.length g.succ, ∀ x, Table.get? e.grants j = some x →
      x.prio ≠ .emergency) ∧
  (∀ e : Engine, e.nextShed = none ↔ ∀ i ∈ e.admission, e.isCandidate i = false) ∧
  (∀ (e : Engine) i, e.nextShed = some i → e.isCandidate i = true ∧ ∃ a b g,
    e.admission = a ++ i :: b ∧ Table.get? e.grants i = some g ∧
    (∀ j ∈ e.admission, e.isCandidate j = true → ∀ x, Table.get? e.grants j = some x →
      g.prio.code ≤ x.prio.code) ∧
    (∀ j ∈ b, e.isCandidate j = true → ∀ x, Table.get? e.grants j = some x → g.prio.code < x.prio.code)) ∧
  (∀ w : Work, w.eng.load ≤ w.eng.ceiling → w.shedPass = w) ∧
  (∀ w : Work, let run := Work.shedLoop (w.eng.grants.length + 1) w
    w.shedPass.eng = run.eng ∧ w.shedPass.out = run.out ∧ w.shedPass.ended = run.ended) ∧
  (∀ (w : Work) n, w.eng.load ≤ w.eng.ceiling ∨ w.eng.nextShed = none → Work.shedLoop n w = w) ∧
  (∀ (w : Work) n i, w.eng.ceiling < w.eng.load → w.eng.nextShed = some i →
    Work.shedLoop (n + 1) w = Work.shedLoop n (w.endGrant .shed i)) ∧
  (∀ w : Work, w.eng.ceiling < w.eng.load → ∀ e : Event,
    (e.isIn w.shedPass.raised = true ↔ e.isIn w.raised = true ∨
      (e = .budgetShed ∧ ∃ i ∈ w.eng.admission, w.eng.isCandidate i = true) ∨
      (e = .emergencyOverCeiling ∧ w.shedPass.eng.ceiling < w.shedPass.eng.load)))

/-- R92, R94: no shedding pass ends an EMERGENCY grant, in any state whatever: not SET_CEILING's, and no other. -/
def Obligations.NoPassEndsAnEmergencyGrant : Prop :=
  (∀ (w : Work) i g, Table.get? w.eng.grants i = some g → g.prio = .emergency →
    ∃ g', Table.get? w.shedPass.eng.grants i = some g' ∧ g'.state = g.state ∧ g'.prio = .emergency) ∧
  (∀ (s t : State) p i g, exec (.setCeiling ⟨p, []⟩) s = .next t → Table.get? s.eng.grants i = some g →
    g.prio = .emergency → ∃ g', Table.get? t.eng.grants i = some g' ∧ g'.state = g.state ∧ g'.prio = .emergency)

/-- R98, whole. -/
def Obligations.LoadQueryAnswers : Prop :=
  (∀ (s : State) r rest, s.serving .site .loadQuery r rest → r.params = [] →
    ∃ t, exec (.loadQuery ⟨.site, []⟩) s = .next t ∧ NothingElse s t ∧
      Answered s t .site r rest
        (.ok (halfBytes s.eng.ceiling ++ halfBytes s.eng.load ++ halfBytes s.eng.emergencyLoad))) ∧
  (∀ (s : State) r rest, s.serving .site .loadQuery r rest → r.params ≠ [] →
    ∃ t, exec (.loadQuery ⟨.site, []⟩) s = .next t ∧ NothingElse s t ∧ Answered s t .site r rest (.no .badParameter)) ∧
  (∀ (s : State) n r rest, s.serving (.sector n) .loadQuery r rest →
    ∃ t, exec (.loadQuery ⟨.sector n, []⟩) s = .next t ∧ NothingElse s t ∧
      Answered s t (.sector n) r rest (.no .notPermitted))

/-! ### The Subscriber Directory -/

/-- R105 to R107: ATTACH of a tag that the Tag Map does not hold takes the lowest FREE record, or is answered
TABLE_FULL with its event when there is none; outside RUNNING, from a disabled sector, or with a tag of the sector's own
it is refused and nothing changes. -/
def Obligations.AttachOfANewTag : Prop :=
  ∀ (s : State) n r rest tag range, s.serving (.sector n) .attach r rest →
    parseAttach r.params = some (tag, range) →
    let refused (c : Cause) : Prop :=
      ∃ t, exec (.attach ⟨.sector n, []⟩) s = .next t ∧ Answered s t (.sector n) r rest (.no c) ∧ NothingElse s t
    (s.op ≠ .running → refused .notRunning) ∧
    (s.op = .running →
      (s.items.sectorsEnabled.getLsbD n.val = false → refused .sectorDisabled) ∧
      (s.items.sectorsEnabled.getLsbD n.val = true →
        (∀ h x, Table.get? s.eng.tagMap tag.toNat = some h → Table.get? s.eng.subs h = some x → x.home = n →
          refused .duplicateTag) ∧
        (Table.get? s.eng.tagMap tag.toNat = none →
          (∀ h, h < 256 → Table.get? s.eng.subs h = none → (∀ j, j < h → Table.get? s.eng.subs j ≠ none) →
            ∃ t, exec (.attach ⟨.sector n, []⟩) s = .next t ∧ Answered s t (.sector n) r rest (.ok [byteOf h, 0]) ∧
              SameSite s t ∧ t.events = s.events ∧ t.freeIndex = s.freeIndex ∧
              t.eng = { s.eng with subs := t.eng.subs, tagMap := t.eng.tagMap } ∧
              Table.get? t.eng.subs h = some ⟨.attached, tag, n, range, 15, 0, []⟩ ∧
              (∀ j, j ≠ h → Table.get? t.eng.subs j = Table.get? s.eng.subs j) ∧
              Table.get? t.eng.tagMap tag.toNat = some h ∧
              ∀ tag' : Nat, tag' ≠ tag.toNat → Table.get? t.eng.tagMap tag' = Table.get? s.eng.tagMap tag') ∧
          ((∀ j, j < 256 → Table.get? s.eng.subs j ≠ none) →
            ∃ t, exec (.attach ⟨.sector n, []⟩) s = .next t ∧
              Answered s t (.sector n) r rest (.no .tableFull) ∧ SameSite s t ∧ t.eng = s.eng ∧
              t.freeIndex = s.freeIndex ∧ t.events = latchEvent .subscriberTableFull s.events))))

/-- R108: ATTACH of a tag held in another sector is a handover: every grant of the record's list has ended; the notices
of those that end at once, and then HANDED_OVER for the old home, are placed ahead of the response; and the record moves,
while tag, quality and Tag Map stay. Where the laws of the tables hold, the grants end with HANDOVER, each that ends at
once is told to the old home, those that stay WITHDRAWN stay on the record's list, and every other record and grant is as
before. R118: when the old home's port is
declared absent at a boundary made while the request executes (log 28), the record moves all the same, the detach waits,
and what is placed for the absent port is discarded with no event. -/
def Obligations.AttachFromAnotherSectorHandsOver : Prop :=
  (∀ (s : State) n r rest tag range h x e time, s.serving (.sector n) .attach r rest →
    parseAttach r.params = some (tag, range) → s.op = .running → s.items.sectorsEnabled.getLsbD n.val = true →
    Table.get? s.eng.tagMap tag.toNat = some h → Table.get? s.eng.subs h = some x → x.home ≠ n →
    x.state ≠ .detaching → s.eng.lawful → s.eng.linksLawful →
    BoundaryMade s (s.onTimer e) time → s.losesPort (.sector x.home) → ¬ s.losesPort (.sector n) →
    let u := s.onTimer e
    ∃ t, exec (.attach ⟨.sector n, [e]⟩) s = .next t ∧ Answered u t (.sector n) r rest (.ok [byteOf h, 1]) ∧
      t.events = u.events ∧ SameSite u t ∧ InternalItem.sectorDetach x.home ∈ t.arb.internal ∧
      EndWith .handover s.eng t.eng x.grants ∧
      (∀ j, j ≠ h → Table.get? t.eng.subs j = Table.get? s.eng.subs j) ∧
      (∀ i, i ∉ x.grants → Table.get? t.eng.grants i = Table.get? s.eng.grants i) ∧
      Table.get? t.eng.subs h = some { x with
        home := n, range := range, state := .attached, run := 0, grants := s.eng.staying x.grants }) ∧
  ∀ (s : State) n r rest tag range h x, s.serving (.sector n) .attach r rest →
    parseAttach r.params = some (tag, range) → s.op = .running → s.items.sectorsEnabled.getLsbD n.val = true →
    Table.get? s.eng.tagMap tag.toNat = some h → Table.get? s.eng.subs h = some x → x.home ≠ n →
    x.state ≠ .detaching →
    ∃ t out, exec (.attach ⟨.sector n, []⟩) s = .next t ∧
      AnsweredAfter s t (.sector n) r rest (.ok [byteOf h, 1]) (out ++ [(x.home, .handedOver x.tag h)]) ∧
      t.events = (s.placeNotices (out ++ [(x.home, .handedOver x.tag h)])).events ∧ SameSite s t ∧
      t.freeIndex = s.freeIndex ∧
      (∀ y ∈ out, ∃ i g c, Table.get? s.eng.grants i = some g ∧ (c = .handover ∨ c = .chainBroken) ∧
        y = (g.owner, .grantEnded i c)) ∧
      (∃ l, Table.get? t.eng.subs h =
        some { x with home := n, range := range, state := .attached, run := 0, grants := l }) ∧
      (∀ i ∈ x.grants, t.eng.hasEnded i) ∧ t.eng.tagMap = s.eng.tagMap ∧
      t.eng.blocked = s.eng.blocked ∧ t.eng.hold = s.eng.hold ∧ t.eng.flush = s.eng.flush ∧
      t.eng.ceiling = s.eng.ceiling ∧
      (s.eng.lawful → s.eng.linksLawful →
        EndWith .handover s.eng t.eng x.grants ∧
        (∀ i ∈ x.grants, ∀ g, Table.get? s.eng.grants i = some g → g.state.offAir = true →
          ∃ c, (x.home, .grantEnded i c) ∈ out) ∧
        (∀ y ∈ out, y.1 = x.home) ∧ out.Nodup ∧
        (∀ j, j ≠ h → Table.get? t.eng.subs j = Table.get? s.eng.subs j) ∧
        (∀ i, i ∉ x.grants → Table.get? t.eng.grants i = Table.get? s.eng.grants i) ∧
        Table.get? t.eng.subs h = some { x with
          home := n, range := range, state := .attached, run := 0, grants := s.eng.staying x.grants }) ∧
      (x.grants = [] →
        out = [] ∧ t.eng = { s.eng with subs := t.eng.subs } ∧
        ∀ j, j ≠ h → Table.get? t.eng.subs j = Table.get? s.eng.subs j)

/-- R109: DETACH ends every grant of the record's list, takes its tag off the Tag Map, and leaves it DETACHING while
its list holds a grant and FREE otherwise. Where the laws of the tables hold, the grants end with DETACHED, those that
stay WITHDRAWN stay on the list, the number answered is that of the grants that ended, and every other record and grant
is as before. -/
def Obligations.DetachEndsTheSubscriber : Prop :=
  ∀ (s : State) n r rest h x, s.serving (.sector n) .detach r rest → parseHandle r.params = some h →
    s.items.sectorsEnabled.getLsbD n.val = true →
    ((∀ y, Table.get? s.eng.subs h = some y → y.state = .detaching ∨ y.home ≠ n) →
      ∃ t, exec (.detach ⟨.sector n, []⟩) s = .next t ∧ Answered s t (.sector n) r rest (.no .unknownSubscriber) ∧
        NothingElse s t) ∧
    (Table.get? s.eng.subs h = some x → x.state ≠ .detaching → x.home = n →
      ∃ t m code, exec (.detach ⟨.sector n, []⟩) s = .next t ∧
        AnsweredWithNotices s t (.sector n) r rest (.ok [code, byteOf m]) ∧ SameSite s t ∧
        t.freeIndex = s.freeIndex ∧
        ((code = 0 ∧ Table.get? t.eng.subs h = none) ∨
          (code = 3 ∧ ∃ l, l ≠ [] ∧ Table.get? t.eng.subs h = some { x with state := .detaching, grants := l })) ∧
        (∀ i ∈ x.grants, t.eng.hasEnded i) ∧
        Table.get? t.eng.tagMap x.tag.toNat = none ∧
        (∀ tag' : Nat, tag' ≠ x.tag.toNat → Table.get? t.eng.tagMap tag' = Table.get? s.eng.tagMap tag') ∧
        t.eng.blocked = s.eng.blocked ∧ t.eng.hold = s.eng.hold ∧ t.eng.flush = s.eng.flush ∧
        t.eng.ceiling = s.eng.ceiling ∧
        (s.eng.lawful → s.eng.linksLawful →
          EndWith .detached s.eng t.eng x.grants ∧ m = (s.eng.endedBy t.eng).length ∧
          (∀ j, j ≠ h → Table.get? t.eng.subs j = Table.get? s.eng.subs j) ∧
          (∀ i, i ∉ x.grants → Table.get? t.eng.grants i = Table.get? s.eng.grants i) ∧
          (s.eng.staying x.grants = [] → code = 0) ∧
          (s.eng.staying x.grants ≠ [] → code = 3 ∧ Table.get? t.eng.subs h =
            some { x with state := .detaching, grants := s.eng.staying x.grants })) ∧
        (x.grants = [] → code = 0 ∧ m = 0 ∧ t.events = s.events ∧
          t.eng = { s.eng with subs := t.eng.subs, tagMap := t.eng.tagMap } ∧
          ∀ j, j ≠ h → Table.get? t.eng.subs j = Table.get? s.eng.subs j))

/-- R111 to R113: an accepted LINK_REPORT sets range class, quality, standing and run count by the table of R113, marks
the grants on the list stale when the range class changes, and places RANGE_CHANGED and then the standing notice. One
that names no record in ATTACHED or SUSPECT homed in the port's sector is answered UNKNOWN_SUBSCRIBER, and nothing
changes. -/
def Obligations.LinkReportUpdatesTheRecord : Prop :=
  (∀ (s : State) n r rest h range q, s.serving (.sector n) .linkReport r rest →
    parseLinkReport r.params = some (h, range, q) → s.items.sectorsEnabled.getLsbD n.val = true →
    (∀ y, Table.get? s.eng.subs h = some y → y.state = .detaching ∨ y.home ≠ n) →
    ∃ t, exec (.linkReport ⟨.sector n, []⟩) s = .next t ∧
      Answered s t (.sector n) r rest (.no .unknownSubscriber) ∧ NothingElse s t) ∧
  ∀ (s : State) n r rest h range (q : Fin 16) x st run (notice : List Notice),
    s.serving (.sector n) .linkReport r rest → parseLinkReport r.params = some (h, range, q) →
    s.items.sectorsEnabled.getLsbD n.val = true → Table.get? s.eng.subs h = some x → x.home = n →
    let poor : Prop := q.val < s.items.qualityFloor
    ((x.state = .attached ∧ ¬ poor ∧ st = .attached ∧ run = 0 ∧ notice = []) ∨
      (x.state = .attached ∧ poor ∧ x.run < 2 ∧ st = .attached ∧ run = x.run + 1 ∧ notice = []) ∨
      (x.state = .attached ∧ poor ∧ x.run = 2 ∧ st = .suspect ∧ run = 0 ∧ notice = [.subscriberSuspect h q]) ∨
      (x.state = .suspect ∧ poor ∧ st = .suspect ∧ run = 0 ∧ notice = []) ∨
      (x.state = .suspect ∧ ¬ poor ∧ x.run < 2 ∧ st = .suspect ∧ run = x.run + 1 ∧ notice = []) ∨
      (x.state = .suspect ∧ ¬ poor ∧ x.run = 2 ∧ st = .attached ∧ run = 0 ∧ notice = [.subscriberCleared h])) →
    let notices := (if range = x.range then [] else [Notice.rangeChanged h x.range range]) ++ notice
    let placed := s.placeNotices (notices.map (fun y => (n, y)))
    ∃ t, exec (.linkReport ⟨.sector n, []⟩) s = .next t ∧
      AnsweredWithNotices s t (.sector n) r rest (.ok [byteOf st.code, byteOf range.val, byteOf run]) ∧
      SameSite s t ∧ t.freeIndex = s.freeIndex ∧
      t.eng = { s.eng with subs := t.eng.subs, grants := t.eng.grants } ∧
      Table.get? t.eng.subs h = some { x with range := range, quality := q, state := st, run := run } ∧
      (∀ j, j ≠ h → Table.get? t.eng.subs j = Table.get? s.eng.subs j) ∧
      (∀ i, Table.get? t.eng.grants i = (Table.get? s.eng.grants i).map (fun g =>
        if range ≠ x.range ∧ i ∈ x.grants then { g with stale := true } else g)) ∧
      t.events = placed.events ∧
      (t.port (.sector n)).oq = (placed.port (.sector n)).oq ++
        [r.answer (.ok [byteOf st.code, byteOf range.val, byteOf run])] ∧
      (t.port (.sector n)).noticeLost = (placed.port (.sector n)).noticeLost ∧
      ∀ p, p ≠ .sector n → t.port p = s.port p

/-- R116, R117, R166: the internal item of sector n's absence runs the sector-wide detach; nothing reaches n's own
port, and no response is placed. -/
def Obligations.AbsenceItemDetachesTheSector : Prop :=
  ∀ (s : State) n, s.nextItem = some (.internal (.sectorDetach n)) → Table.wf s.eng.subs →
    ∃ t, exec (.sectorDetachItem n) s = .next t ∧ SectorDetached .sectorLost n s.eng t.eng ∧ SameSite s t ∧
      t.freeIndex = s.freeIndex ∧ t.arb = { s.arb with internal := s.arb.internal.tail } ∧
      t.port (.sector n) = s.port (.sector n) ∧ t.port .site = s.port .site ∧
      ∀ m, PortNoticed (s.port (.sector m)) (t.port (.sector m))

/-- R163, R180, R118: SECTOR_REBOOT and SECTOR_RESET flush the sector's port, run the sector-wide detach, and set the
notice enable set to every kind; health, runs and keepalive stay. The first count is the number of ATTACHED and SUSPECT
records, where one byte can carry it (log 11), and the second, where the laws of the tables hold, that of the grants that
ended. -/
def Obligations.SectorRebootAndReset : Prop :=
  ∀ (s : State) n, Table.wf s.eng.subs →
    let flushed : Port := { s.port (.sector n) with
      rq := [], oq := [], owed := 0, noticeLost := false, lastIntake := .none, notices := allNotices,
      txn := (s.port (.sector n)).txn.map (fun y => { y with isHead := false }) }
    let count := (s.eng.subs.filter (fun x => x.2.servedIn n)).length
    (∀ r rest, s.serving (.sector n) .sectorReboot r rest → r.params = [] →
      ∃ t b m, exec (.sectorReboot ⟨.sector n, []⟩) s = .next t ∧ SectorDetached .sectorReset n s.eng t.eng ∧
        SameSite s t ∧ (s.eng.lawful → s.eng.linksLawful → m = (s.eng.endedBy t.eng).length) ∧
        t.port (.sector n) = { flushed with oq := [r.answer (.ok [b, byteOf m])] } ∧
        (∀ k, k ≠ n → PortNoticed (s.port (.sector k)) (t.port (.sector k))) ∧ t.port .site = s.port .site ∧
        t.arb = { s.arb with executing := none, lastServed := s.servedAfter (.sector n) } ∧
        (count < 256 → b = byteOf count ∧ t.freeIndex = s.freeIndex)) ∧
    (∀ r rest, s.serving .site .sectorReset r rest → parseSector r.params = some n →
      ∃ t b m, exec (.sectorReset ⟨.site, []⟩) s = .next t ∧ SectorDetached .sectorReset n s.eng t.eng ∧
        SameSite s t ∧ (s.eng.lawful → s.eng.linksLawful → m = (s.eng.endedBy t.eng).length) ∧
        t.port (.sector n) = flushed ∧
        (∀ k, k ≠ n → PortNoticed (s.port (.sector k)) (t.port (.sector k))) ∧
        t.port .site = { s.port .site with
          rq := rest, oq := (s.port .site).oq ++ [r.answer (.ok [b, byteOf m])], owed := (s.port .site).owed - 1 } ∧
        t.arb = { s.arb with executing := none } ∧
        (count < 256 → b = byteOf count ∧ t.freeIndex = s.freeIndex))

/-! ### Classes and templates -/

/-- R121, whole. -/
def Obligations.ClassWrite : Prop :=
  (∀ (s : State) n r rest, s.serving (.sector n) .classWrite r rest →
    ∃ t, exec (.classWrite ⟨.sector n, []⟩) s = .next t ∧ Answered s t (.sector n) r rest (.no .notPermitted) ∧
      NothingElse s t) ∧
  (∀ (s : State) r rest c x e, s.serving .site .classWrite r rest → r.params = [c, x, e] →
    (16 ≤ c.toNat ∨ 24 ≤ x.toNat →
      ∃ t, exec (.classWrite ⟨.site, []⟩) s = .next t ∧ Answered s t .site r rest (.no .badParameter) ∧
        NothingElse s t) ∧
    (∀ (cls : Fin 16) (idx : Fin 24) (on : Bool), c = byteOf cls.val → x = byteOf idx.val → e = yesNoByte on →
      ((s.classes[cls].enabled = false ∨ s.classes[cls].template = idx) →
        ∃ t, exec (.classWrite ⟨.site, []⟩) s = .next t ∧
          Answered s t .site r rest (.ok [byteOf idx.val, yesNoByte on]) ∧ SameEngine s t ∧
          t.classes[cls] = ⟨idx, on⟩ ∧ (∀ k : Fin 16, k ≠ cls → t.classes[k] = s.classes[k]) ∧
          SameSite { s with classes := t.classes } t) ∧
      (s.classes[cls].enabled = true → s.classes[cls].template ≠ idx →
        ∃ t, exec (.classWrite ⟨.site, []⟩) s = .next t ∧ NothingElse s t ∧
          Answered s t .site r rest ⟨.classEnabled, [byteOf s.classes[cls].template.val]⟩)))

/-- R124, whole; b is the template's eight bytes in the layout of 11.3. -/
def Obligations.TemplateWrite : Prop :=
  (∀ (s : State) n r rest, s.serving (.sector n) .templateWrite r rest →
    ∃ t, exec (.templateWrite ⟨.sector n, []⟩) s = .next t ∧ Answered s t (.sector n) r rest (.no .notPermitted) ∧
      NothingElse s t) ∧
  (∀ (s : State) r rest i mode len rnd slots prio dir mask flags, s.serving .site .templateWrite r rest →
    r.params = [i, mode, len, rnd, slots, prio, dir, mask, flags] →
    (24 ≤ i.toNat ∨ 2 ≤ mode.toNat ∨ 2 ≤ rnd.toNat ∨ slots.toNat = 0 ∨ 9 ≤ slots.toNat ∨ 4 ≤ prio.toNat ∨
        3 ≤ dir.toNat ∨ mask = 0 →
      ∃ t, exec (.templateWrite ⟨.site, []⟩) s = .next t ∧ Answered s t .site r rest (.no .badParameter) ∧
        NothingElse s t) ∧
    (∀ (idx : Fin 24) (x : Template), i = byteOf idx.val → mode = byteOf x.mode.code →
      len = byteOf x.roundLength → 1 ≤ x.roundLength → x.roundLength ≤ 256 → rnd = byteOf x.rounding.code →
      slots = byteOf x.maxSlots → 1 ≤ x.maxSlots → x.maxSlots ≤ 8 → prio = byteOf x.priority.code →
      dir = byteOf x.direction.code → mask = x.carriers → x.carriers ≠ 0 →
      flags.getLsbD 0 = x.roundNotice → flags.getLsbD 1 = x.renewRequired →
      (∀ c : Fin 16, s.classes[c].enabled = true → s.classes[c].template = idx →
        (∀ k : Fin 16, k < c → ¬ (s.classes[k].enabled = true ∧ s.classes[k].template = idx)) →
        ∃ t, exec (.templateWrite ⟨.site, []⟩) s = .next t ∧ NothingElse s t ∧
          Answered s t .site r rest ⟨.templateInUse, [byteOf c.val]⟩) ∧
      ((∀ c : Fin 16, ¬ (s.classes[c].enabled = true ∧ s.classes[c].template = idx)) →
        ∃ t, exec (.templateWrite ⟨.site, []⟩) s = .next t ∧ Answered s t .site r rest (.ok []) ∧ SameEngine s t ∧
          t.templates[idx] = x ∧ (∀ k : Fin 24, k ≠ idx → t.templates[k] = s.templates[k]) ∧
          SameSite { s with templates := t.templates } t)))

/-- R125: TEMPLATE_READ carries the template's fields and the two sets of classes, and changes nothing. -/
def Obligations.TemplateReadAnswers : Prop :=
  ∀ (s : State) r rest i, s.serving .site .templateRead r rest → parseTemplateIndex r.params = some i →
    ∃ t a b c d, exec (.templateRead ⟨.site, []⟩) s = .next t ∧ NothingElse s t ∧
      Answered s t .site r rest (.ok ([byteOf i.val] ++ s.templates[i].bytes ++ [a, b, c, d])) ∧
      (∀ k : Fin 16, (halfOf a b).testBit k.val = decide (s.classes[k].template = i)) ∧
      (∀ k : Fin 16, (halfOf c d).testBit k.val =
        (decide (s.classes[k].template = i) && s.classes[k].enabled)) ∧
      (1 ≤ s.templates[i].roundLength → s.templates[i].roundLength ≤ 256 → 1 ≤ s.templates[i].maxSlots →
        s.templates[i].maxSlots ≤ 8 → s.templates[i].carriers ≠ 0 →
        parseTemplateWrite (byteOf i.val :: s.templates[i].bytes) = some (i, s.templates[i]))

/-! ### The Frame Timer and the Keying Unit -/

/-- R136, R137, R139, R140, R142: the expiries. In FREE_RUN the expiry of P makes a boundary P after the last one. In
LOCKING the missed count rises and nothing else happens; in LOCKED a coasted boundary is made at P + T and the timer is
in HOLDOVER at 1; in HOLDOVER a coasted boundary is made at P and the count rises. SYNC_LOST is raised once, when the
count is at HOLDOVER_LIMIT or above. That a boundary appends no internal item that waits already is read from R164 (log
10). -/
def Obligations.PeriodExpiries : Prop :=
  (∀ s : State, s.timer.state = .freeRun →
     ∃ t, exec .freeRunPeriodExpiry s = .next t ∧
       BoundaryMade s t (s.timer.lastBoundary + s.items.framePeriod) ∧ t.timer.state = .freeRun ∧
       t.timer.missed = s.timer.missed ∧ t.timer.lostMark = s.timer.lostMark ∧ EventsGrow s t (fun _ => False)) ∧
  ((∀ s : State, s.timer.state = .locking →
     let m := min (s.timer.missed + 1) 65535
     ∃ t, exec .lockingPeriodExpiry s = .next t ∧
       t = { s with
         timer := { s.timer with missed := m, lostMark := s.timer.lostMark || decide (s.items.holdoverLimit ≤ m) }
         events := if s.items.holdoverLimit ≤ m ∧ s.timer.lostMark = false then latchEvent .syncLost s.events
           else s.events }) ∧
   (∀ s : State, s.timer.state = .locked →
     ∃ t, exec .lockedSyncTimeout s = .next t ∧
       BoundaryMade s t (s.timer.lastBoundary + s.items.framePeriod + s.items.syncTolerance) ∧
       t.timer.state = .holdover ∧ t.timer.missed = 1 ∧
       t.timer.lostMark = (s.timer.lostMark || decide (s.items.holdoverLimit ≤ 1)) ∧
       EventsGrow s t (fun e => e = .syncLost ∧ s.items.holdoverLimit ≤ 1 ∧ s.timer.lostMark = false)) ∧
   (∀ s : State, s.timer.state = .holdover →
     let m := min (s.timer.missed + 1) 65535
     ∃ t, exec .holdoverPeriodExpiry s = .next t ∧
       BoundaryMade s t (s.timer.lastBoundary + s.items.framePeriod) ∧
       t.timer.state = .holdover ∧ t.timer.missed = m ∧
       t.timer.lostMark = (s.timer.lostMark || decide (s.items.holdoverLimit ≤ m)) ∧
       EventsGrow s t (fun e => e = .syncLost ∧ s.items.holdoverLimit ≤ m ∧ s.timer.lostMark = false)))

/-- R133, R136 to R138, R141: a pulse is ignored in STOPPED and FREE_RUN; the first pulse in LOCKING makes a boundary and
locks; in HOLDOVER and in LOCKED the window of t decides, in LOCKED up to P + T, where the coasted boundary is made
(R139). T below P/4 is START's condition (R169). That a boundary appends no internal item that waits already is read from
R164 (log 10). -/
def Obligations.PulsesByStateAndWindow : Prop :=
  ((∀ (s : State) u, s.timer.state = .stopped ∨ s.timer.state = .freeRun → exec (.fsyncPulse u) s = .next s) ∧
   (∀ (s : State) u, s.timer.state = .locking →
     ∃ t, exec (.fsyncPulse u) s = .next t ∧ BoundaryMade s t (s.timer.lastBoundary + u) ∧
       t.timer.state = .locked ∧ t.timer.missed = 0 ∧ t.timer.lostMark = false ∧
       EventsGrow s t (fun e => e = .syncRegained ∧ s.timer.lostMark = true)) ∧
   (∀ (s : State) u, s.timer.state = .holdover → 4 * s.items.syncTolerance < s.items.framePeriod →
     (u ≤ s.items.syncTolerance → exec (.fsyncPulse u) s = .next { s with
       timer := { s.timer with state := .locked, missed := 0, lostMark := false }
       events := if s.timer.lostMark then latchEvent .syncRegained s.events else s.events }) ∧
     (s.items.syncTolerance < u → 2 * u < s.items.framePeriod → exec (.fsyncPulse u) s = .next s) ∧
     (s.items.framePeriod ≤ 2 * u →
       ∃ t, exec (.fsyncPulse u) s = .next t ∧ BoundaryMade s t (s.timer.lastBoundary + u) ∧
         t.timer.state = .locked ∧ t.timer.missed = 0 ∧ t.timer.lostMark = false ∧
         EventsGrow s t (fun e => (e = .syncRegained ∧ s.timer.lostMark = true) ∨
           (e = .frameTruncated ∧ u + s.items.syncTolerance < s.items.framePeriod))))) ∧
  (∀ (s : State) u, s.timer.state = .locked → 4 * s.items.syncTolerance < s.items.framePeriod →
     let boundary (extra : Event → Prop) : Prop :=
       ∃ t, exec (.fsyncPulse u) s = .next t ∧ BoundaryMade s t (s.timer.lastBoundary + u) ∧
         t.timer.state = .locked ∧ t.timer.missed = s.timer.missed ∧ t.timer.lostMark = s.timer.lostMark ∧
         EventsGrow s t extra
     (2 * u < s.items.framePeriod → exec (.fsyncPulse u) s = .next s) ∧
     (s.items.framePeriod ≤ 2 * u → u + s.items.syncTolerance < s.items.framePeriod →
       (s.items.earlyPolicy = .truncate → boundary (fun e => e = .frameTruncated)) ∧
       (s.items.earlyPolicy = .ignore → exec (.fsyncPulse u) s = .next s)) ∧
     (s.items.framePeriod ≤ u + s.items.syncTolerance → u ≤ s.items.framePeriod + s.items.syncTolerance →
       boundary (fun _ => False)))

/-- R142, R143, R145: slot n, of 1 to 15, follows slot n - 1 and asserts exactly the KEY lines of the carriers whose
set in the Air Map holds n; the end of the FMARK pulse deasserts FMARK. Nothing else changes. -/
def Obligations.SlotStartsAndFmark : Prop :=
  (∀ (s : State) n, 1 ≤ n → n ≤ 15 → s.timer.slot = some (n - 1) → s.timer.state ≠ .stopped →
    ∃ keys : BitVec 8, exec (.slotStart n) s = .next { s with
        timer := { s.timer with slot := some n }, keying := { s.keying with keys := keys } } ∧
      ∀ c : Carrier, keys.getLsbD c.val = s.keying.airMap[c].getLsbD n) ∧
  (∀ s : State, exec .fmarkPulseEnd s = .next { s with timer := { s.timer with fmark := false } })

/-! ### The Link Ports -/

/-- R148, R182: the begin of a transaction composes the outbound frame of the Outbound Queue's head, or IDLE, with the
last intake result and the port flags, and a CRC over it; SDO carries the frame of the open transaction and fill bytes
after it. A port whose transaction is open is not changed (log 2). -/
def Obligations.TransactionBegins : Prop :=
  (∀ (s : State) p x, (s.port p).txn = some x →
    (∀ i (h : i < x.frame.length), s.sdo p i = x.frame[i]) ∧ ∀ i, x.frame.length ≤ i → s.sdo p i = 0xFF) ∧
  (∀ (s : State) p x, (s.port p).txn = some x → exec (.transactionBegin p) s = .next s) ∧
  (∀ (s : State) p, (s.port p).txn = none →
    let q := s.port p
    let lost := decide (p ≠ .site) && q.noticeLost
    ∃ frame flags : List Byte, ∃ f : Byte,
      exec (.transactionBegin p) s = .next (s.setPort p { q with txn := some ⟨frame, !q.oq.isEmpty, lost, false⟩ }) ∧
      flags = [byteOf q.lastIntake.code, f] ∧ f.getLsbD 0 = lost ∧ f.getLsbD 1 = decide (q.health = .alert) ∧
      f.getLsbD 2 = decide (s.op = .running) ∧ (∀ i, 3 ≤ i → f.getLsbD i = false) ∧
      (q.oq = [] → frame = withCrc ([0x01] ++ flags ++ [0x00, 0x00, 0x00])) ∧
      (∀ tag cause payload more, q.oq = .response tag cause payload :: more →
        frame = withCrc ([0x02] ++ flags ++ [tag, cause.code, byteOf payload.length] ++ payload)) ∧
      (∀ x more, q.oq = .notice x :: more →
        frame = withCrc ([0x03] ++ flags ++ [byteOf x.code, 0x00, byteOf x.payload.length] ++ x.payload)))

/-- R149 to R151: the end of a transaction settles its outbound side: a frame clocked whole that still is the head leaves
the queue (said of a port that is not ABSENT; its return is said apart); one that carried NOTICE_LOST turns the flag off,
unless a notice was lost meanwhile. A request is TAKEN when the Request Queue holds fewer than 8 and the Outbound Queue
and the owed count leave room, and is BUSY otherwise; the other verdicts take nothing. Nothing outside the port changes
but, at most, the event PORT_ALERT. That the end changes nothing on a port with no open transaction is the model's choice
(log 2), and that as many bytes are clocked out as are shifted in is read from 9.1 (log 15). -/
def Obligations.TransactionEndSettlesBothSides : Prop :=
  ((∀ (s : State) p inbound, (s.port p).txn = none → exec (.transactionEnd p inbound) s = .next s) ∧
   (∀ (s : State) p inbound x, (s.port p).txn = some x →
     ∃ t, exec (.transactionEnd p inbound) s = .next t ∧ (t.port p).txn = none ∧
       ((s.port p).health ≠ .absent →
         (x.frame.length ≤ inbound.length → x.isHead = true → (t.port p).oq = (s.port p).oq.tail) ∧
         (inbound.length < x.frame.length ∨ x.isHead = false → (t.port p).oq = (s.port p).oq)) ∧
       (x.frame.length ≤ inbound.length → x.carriedLost = true → x.lostDuring = false →
         (t.port p).noticeLost = false) ∧
       (inbound.length < x.frame.length ∨ x.carriedLost = false ∨ x.lostDuring = true →
         (t.port p).noticeLost = (s.port p).noticeLost) ∧
       (t.port p).notices = (s.port p).notices ∧ (∀ q, q ≠ p → t.port q = s.port q) ∧ t.arb = s.arb ∧
       SameSite s t ∧ t.eng = s.eng ∧ t.freeIndex = s.freeIndex ∧
       (t.events = s.events ∨ t.events = latchEvent (.portAlert p) s.events))) ∧
  (∀ (s : State) p inbound x, (s.port p).txn = some x →
     ∃ t, exec (.transactionEnd p inbound) s = .next t ∧
       (∀ r, classify inbound = .request r →
         ((s.port p).rq.length < 8 → (t.port p).oq.length + (s.port p).owed < 16 →
           (t.port p).rq = (s.port p).rq ++ [r] ∧ (t.port p).owed = (s.port p).owed + 1 ∧
           (t.port p).lastIntake = .taken) ∧
         (8 ≤ (s.port p).rq.length ∨ 16 ≤ (t.port p).oq.length + (s.port p).owed →
           (t.port p).rq = (s.port p).rq ∧ (t.port p).owed = (s.port p).owed ∧ (t.port p).lastIntake = .busy)) ∧
       ((∀ r, classify inbound ≠ .request r) →
         (t.port p).rq = (s.port p).rq ∧ (t.port p).owed = (s.port p).owed ∧
         (classify inbound = .none → (t.port p).lastIntake = .none) ∧
         (classify inbound = .poll → (t.port p).lastIntake = .pollSeen) ∧
         (classify inbound = .crcBad → (t.port p).lastIntake = .crcBad) ∧
         (classify inbound = .tooLong → (t.port p).lastIntake = .tooLong)))

/-- R157, R158, R161: the verdict moves the port's health by the table of R157; a valid frame clears the bad run and the
keepalive count; the third bad frame in a row raises PORT_ALERT; a valid frame brings an ABSENT port back, and a sector
port then finds LINK_RESUMED in its queue, while SP returns with no notice placed. -/
def Obligations.VerdictsMoveTheHealth : Prop :=
  ∀ (s : State) p inbound x, (s.port p).txn = some x →
    let q := s.port p
    let valid : Prop := classify inbound = .poll ∨ ∃ r, classify inbound = .request r
    let bad : Prop := classify inbound = .crcBad ∨ classify inbound = .tooLong
    ∃ t, exec (.transactionEnd p inbound) s = .next t ∧
      (classify inbound = .none → (t.port p).health = q.health ∧ (t.port p).badRun = q.badRun ∧
        (t.port p).goodRun = q.goodRun ∧ (t.port p).keepalive = q.keepalive ∧ t.events = s.events) ∧
      (valid → (t.port p).badRun = 0 ∧ (t.port p).keepalive = 0 ∧ t.events = s.events ∧
        (q.health ≠ .alert → (t.port p).health = .present ∧ (t.port p).goodRun = q.goodRun) ∧
        (q.health = .alert → q.goodRun < 7 →
          (t.port p).health = .alert ∧ (t.port p).goodRun = q.goodRun + 1) ∧
        (q.health = .alert → 7 ≤ q.goodRun → (t.port p).health = .present ∧ (t.port p).goodRun = 0)) ∧
      (∀ n, valid → p = .sector n → q.health = .absent → q.oq = [] →
        (t.port p).oq = [.notice (.linkResumed s.timer.frameCounter)]) ∧
      (valid → p = .site → q.health = .absent →
        (x.frame.length ≤ inbound.length → x.isHead = true → (t.port p).oq = q.oq.tail) ∧
        (inbound.length < x.frame.length ∨ x.isHead = false → (t.port p).oq = q.oq)) ∧
      (bad → (t.port p).goodRun = 0 ∧ (t.port p).keepalive = q.keepalive ∧
        (q.health = .silent ∨ q.health = .present →
          (q.badRun < 2 → (t.port p).health = q.health ∧ (t.port p).badRun = q.badRun + 1 ∧ t.events = s.events) ∧
          (2 ≤ q.badRun → (t.port p).health = .alert ∧ (t.port p).badRun = 0 ∧
            t.events = latchEvent (.portAlert p) s.events)) ∧
        (q.health = .alert ∨ q.health = .absent → (t.port p).health = q.health ∧
          (t.port p).badRun = min (q.badRun + 1) 3 ∧ t.events = s.events))

/-- R150: the tests of the table in order, on what was shifted in: no frame, the five ways a frame is bad, and a valid
frame. R182, 11.1: every inbound frame with a right CRC, followed by any number of fill bytes, is read as the POLL
or as the request it carries, for every kind code that is not the fill byte, every tag and every parameter list of at
most 24 bytes. The bit order of the CRC is the model's (log 14). -/
def Obligations.FramesAreReadBack : Prop :=
  (classify [] = .none ∧ ∀ more, classify (0xFF#8 :: more) = .none) ∧
  (∀ kind tag : Byte, kind ≠ 0xFF → classify [kind] = .crcBad ∧ classify [kind, tag] = .crcBad) ∧
  (∀ (kind tag n : Byte) (rest : List Byte), kind ≠ 0xFF →
    (24 < n.toNat → classify (kind :: tag :: n :: rest) = .tooLong) ∧
    (n.toNat ≤ 24 → rest.length < n.toNat + 2 → classify (kind :: tag :: n :: rest) = .crcBad)) ∧
  (∀ (kind tag hi lo : Byte) (params more : List Byte), kind ≠ 0xFF → params.length ≤ 24 →
    let head : List Byte := [kind, tag, byteOf params.length] ++ params
    ((∃ b ∈ more, b ≠ 0xFF) → classify (head ++ [hi, lo] ++ more) = .tooLong) ∧
    ((∀ b ∈ more, b = 0xFF) → head ++ [hi, lo] ≠ withCrc head → classify (head ++ [hi, lo] ++ more) = .crcBad)) ∧
  ∀ (kind tag : Byte) (params : List Byte) (fill : Nat), kind ≠ 0xFF → params.length ≤ 24 →
    classify (withCrc ([kind, tag, byteOf params.length] ++ params) ++ List.replicate fill 0xFF) =
      if kind = 0x00 then .poll else .request ⟨kind, tag, params⟩

/-- R154, R155: SET_NOTICES replaces the notice enable set of its port, bit 7 being ignored; and what becomes of a notice
placed for a port: discarded when the port is ABSENT or the kind is not enabled, appended when there is room, and
otherwise dropped with the flag, the event, and the mark in an open transaction that keeps the flag on at its end (R149).
R156, R178: ATTN of a sector port follows its Outbound Queue, and SP's follows its Outbound Queue and the latched events
that are routed. -/
def Obligations.NoticesFollowTheEnableSet : Prop :=
  (∀ (s : State) n r rest m, s.serving (.sector n) .setNotices r rest → r.params = [m] →
     ∃ t, exec (.setNotices ⟨.sector n, []⟩) s = .next t ∧ NothingElse s t ∧
       t.port (.sector n) = { s.port (.sector n) with
         rq := rest, notices := m.setWidth 7, owed := (s.port (.sector n)).owed - 1,
         oq := (s.port (.sector n)).oq ++ [r.answer (.ok [m &&& 0x7F#8])] } ∧
       (∀ p, p ≠ .sector n → t.port p = s.port p) ∧
       t.arb = { s.arb with executing := none, lastServed := s.servedAfter (.sector n) }) ∧
  (∀ (s : State) n (x : Notice),
     let q := s.port (.sector n)
     (q.health = .absent → s.placeNotice n x = s) ∧
     (q.health ≠ .absent → q.notices.getLsbD (x.code - 1) = false → s.placeNotice n x = s) ∧
     (q.health ≠ .absent → q.notices.getLsbD (x.code - 1) = true →
       (q.oq.length + q.owed < 16 →
         s.placeNotice n x = s.setPort (.sector n) { q with oq := q.oq ++ [.notice x] }) ∧
       (16 ≤ q.oq.length + q.owed →
         ((s.placeNotice n x).port (.sector n)).oq = q.oq ∧
         ((s.placeNotice n x).port (.sector n)).noticeLost = true ∧
         ((s.placeNotice n x).port (.sector n)).txn = q.txn.map (fun y => { y with lostDuring := true }) ∧
         (s.placeNotice n x).events = latchEvent (.noticeLost n) s.events ∧
         PortKept q ((s.placeNotice n x).port (.sector n)) ∧
         (∀ p, p ≠ .sector n → (s.placeNotice n x).port p = s.port p)))) ∧
  (∀ (s : State) n, s.attn (.sector n) = true ↔ (s.port (.sector n)).oq ≠ []) ∧
  (∀ s : State, s.attn .site = true ↔ (s.port .site).oq ≠ [] ∨
    ∃ e : Event, e.isIn s.events = true ∧ s.items.eventRoute.getLsbD e.number = true)

/-! ### Site Supervision -/

/-- R174: device reset. The queue of commands and the free counter, which the part does not have, stay (log 16). -/
def Obligations.DeviceReset : Prop :=
  ∀ s : State, ∃ t, exec .deviceReset s = .next t ∧ t.pending = s.pending ∧ t.freeIndex = s.freeIndex ∧
    t.op = .standby ∧ t.events = 0 ∧ t.items = ConfigItems.default ∧ t.items.eventRoute = BitVec.allOnes 22 ∧
    t.timer.state = .stopped ∧ t.timer.frameCounter = 0 ∧ t.timer.missed = 0 ∧ t.timer.lostMark = false ∧
    t.timer.fmark = false ∧ t.keying = ⟨emptyAirMap, 0⟩ ∧
    t.eng = ⟨[], [], [], [], [], false, false, 1024, 0, 0, [], []⟩ ∧
    (∀ c : Fin 16, t.classes[c].template.val = c.val ∧ t.classes[c].enabled = false) ∧
    (∀ i : Fin 24, t.templates[i] = ⟨.oneShot, 1, .nearest, 1, .standard, .either, 0xFF#8, false, false⟩) ∧
    t.arb = ⟨0, [], 3, none, false⟩ ∧
    (∀ p, t.port p = ⟨[], [], 0, .silent, 0, 0, 0, false, .none, 0x7F#7, none⟩) ∧
    (∀ p, t.attn p = false) ∧ (∀ p i, t.sdo p i = 0xFF)

/-- R135, R169: START in STANDBY with a sound configuration; the first check that fails gives BAD_CONFIG with its item;
in RUNNING or DRAINING it is WRONG_STATE. -/
def Obligations.StartRunsThePart : Prop :=
  ∀ (s : State) r rest time, s.serving .site .start r rest → r.params = [] →
    let c := s.items
    let refused (rep : Reply) : Prop :=
      ∃ t, exec (.start ⟨.site, []⟩ time) s = .next t ∧ Answered s t .site r rest rep ∧ NothingElse s t
    (s.op ≠ .standby → refused (.no .wrongState)) ∧
    (s.op = .standby →
      (c.sectorsEnabled = 0 → refused ⟨.badConfig, [0x06]⟩) ∧
      (c.sectorsEnabled ≠ 0 → c.carriersEnabled = 0 → refused ⟨.badConfig, [0x07]⟩) ∧
      (c.sectorsEnabled ≠ 0 → c.carriersEnabled ≠ 0 → c.framePeriod ≤ 4 * c.syncTolerance →
        refused ⟨.badConfig, [0x03]⟩) ∧
      (c.sectorsEnabled ≠ 0 → c.carriersEnabled ≠ 0 → 4 * c.syncTolerance < c.framePeriod →
        let state : TimerState := if c.syncSource = .internal then .freeRun else .locking
        let code : Byte := if c.syncSource = .internal then 1 else 2
        ∃ t, exec (.start ⟨.site, []⟩ time) s = .next t ∧ t.op = .running ∧
          t.timer = { s.timer with
            state := state, lastBoundary := time, missed := 0, lostMark := false, frameCounter := 0, slot := none } ∧
          (∀ n, t.port (.sector n) = { s.port (.sector n) with keepalive := 0 }) ∧
          t.port .site = { s.port .site with
            rq := rest, keepalive := 0, owed := (s.port .site).owed - 1,
            oq := (s.port .site).oq ++ [r.answer (.ok [code, 0, 0])] } ∧
          t.arb = { s.arb with executing := none } ∧ t.pending = s.pending ∧ t.items = s.items ∧
          t.keying = s.keying ∧ t.classes = s.classes ∧ t.templates = s.templates ∧ SameEngine s t))

/-- R170, R171: STANDBY. In RUNNING every grant ends or is withdrawn, where the laws of the tables hold with SHUTDOWN, and
HOLD and flush turn off; the part is then DRAINING, or in STANDBY at once when no grant record is in use. R172: a boundary
that the timer makes while the request is executing, before the engine's own actions (log 28), stays pending across the
drain; if it declares SP absent, the response is discarded (R153). That the stop of the timer leaves FMARK as it was is
read from R142 and R146 (log 22). -/
def Obligations.StandbyDrains : Prop :=
  (∀ (s : State) r rest, s.serving .site .standby r rest → r.params = [] →
    (s.op = .standby →
      ∃ t, exec (.standby ⟨.site, []⟩) s = .next t ∧ Answered s t .site r rest (.ok [0, 0]) ∧ NothingElse s t) ∧
    (s.op = .draining →
      ∃ t, exec (.standby ⟨.site, []⟩) s = .next t ∧ Answered s t .site r rest (.no .wrongState) ∧ NothingElse s t)) ∧
  (∀ (s u : State) r rest during, s.serving .site .standby r rest → r.params = [] → s.op = .running →
    (during = [] ∧ u = s) ∨ (∃ e, during = [e] ∧ u = s.onTimer e ∧ ¬ s.losesPort .site) →
    ∃ t n, exec (.standby ⟨.site, during⟩) s = .next t ∧
      AnsweredWithNotices u t .site r rest (.ok [byteOf t.op.code, byteOf n]) ∧
      t.arb.pendingBoundaries = u.arb.pendingBoundaries ∧ t.arb.internal = u.arb.internal ∧
      (∀ i ∈ s.eng.admission, t.eng.hasEnded i) ∧
      (∀ i g c, Table.get? s.eng.grants i = some g → g.state = .withdrawn c →
        ∀ g', Table.get? t.eng.grants i = some g' → g'.state = .withdrawn c) ∧
      (∀ i g g', Table.get? s.eng.grants i = some g → g.state.isWithdrawn = false →
        Table.get? t.eng.grants i = some g' → g'.state.isWithdrawn = true → g'.state = .withdrawn .shutdown) ∧
      (s.eng.lawful → s.eng.linksLawful → EndWith .shutdown s.eng t.eng s.eng.admission ∧
        n = (s.eng.endedBy t.eng).length ∧ t.eng.load = 0 ∧ t.eng.emergencyLoad = 0 ∧ t.eng.changes = []) ∧
      t.eng.hold = false ∧ t.eng.flush = false ∧
      (t.eng.grants ≠ [] → t.op = .draining ∧ t.timer = u.timer ∧ t.keying = u.keying ∧
        t.eng.tagMap = s.eng.tagMap) ∧
      (t.eng.grants = [] → t.op = .standby ∧ Event.isIn .standbyReached t.events = true ∧ t.eng.subs = [] ∧
        t.eng.tagMap = [] ∧ t.keying = ⟨emptyAirMap, 0⟩ ∧
        t.timer = { u.timer with state := .stopped, missed := 0, lostMark := false, slot := none }) ∧
      (s.eng.grants = [] → n = 0) ∧
      t.eng.blocked = s.eng.blocked ∧ t.eng.ceiling = s.eng.ceiling ∧ t.pending = s.pending ∧
      t.items = s.items ∧ t.classes = s.classes ∧ t.templates = s.templates ∧ t.freeIndex = u.freeIndex) ∧
  (∀ (s : State) r rest e time, s.serving .site .standby r rest → r.params = [] → s.losesPort .site →
    BoundaryMade s (s.onTimer e) time →
    ∃ t, exec (.standby ⟨.site, [e]⟩) s = .next t ∧ t.arb.pendingBoundaries = s.arb.pendingBoundaries + 1 ∧
      (t.port .site).health = .absent ∧ (t.port .site).rq = [] ∧ (t.port .site).oq = [] ∧ (t.port .site).owed = 0 ∧
      t.arb.executing = none ∧ t.arb.discard = false)

/-- R173: SOFT_RESET in every operating state: what it clears and what it keeps. R173 does not name FMARK among what is
kept: that the stop of the timer leaves it as it was is read from R142 and R146 (log 22). The queue of commands and the
free counter are the model's (logs 11, 19), and so is the order by which what reaches the timer meanwhile comes first
(log 28). -/
def Obligations.SoftReset : Prop :=
  ∀ (s u : State) r rest during, s.serving .site .softReset r rest → r.params = [] →
    u = during.foldl State.onTimer s → (u.port .site).rq = r :: rest →
    ∃ t, exec (.softReset ⟨.site, during⟩) s = .next t ∧ t.op = .standby ∧ t.events = 0 ∧
      t.eng = { Engine.reset with blocked := s.eng.blocked, ceiling := s.eng.ceiling } ∧
      t.timer = { u.timer with state := .stopped, missed := 0, lostMark := false, slot := none } ∧
      t.keying = ⟨emptyAirMap, 0⟩ ∧ t.arb = ⟨0, [], 3, none, false⟩ ∧
      (∀ n, t.port (.sector n) = { Port.reset with
        txn := (s.port (.sector n)).txn.map (fun x => { x with isHead := false }) }) ∧
      t.port .site = { Port.reset with
        oq := [r.answer (.ok [])], txn := (s.port .site).txn.map (fun x => { x with isHead := false }) } ∧
      t.items = s.items ∧ t.classes = s.classes ∧ t.templates = s.templates ∧ t.pending = s.pending ∧
      t.freeIndex = u.freeIndex

/-- R175: CONFIGURE stores a value in its item's range and in a state that may write the item, and the item reads back;
every other item and entry is as before. Otherwise BAD_PARAMETER, and then STANDBY_ONLY, and nothing changes. -/
def Obligations.Configure : Prop :=
  ∀ (s : State) r rest code i x, s.serving .site .configure r rest → parseConfigure r.params = some (code, i, x) →
    let refused (c : Cause) : Prop :=
      ∃ t, exec (.configure ⟨.site, []⟩) s = .next t ∧ Answered s t .site r rest (.no c) ∧ NothingElse s t
    (ConfigItem.ofCode? code = none → refused .badParameter) ∧
    (∀ item, ConfigItem.ofCode? code = some item →
      (¬ item.inRange i x → refused .badParameter) ∧
      (item.inRange i x → item.standbyOnly = true → s.op ≠ .standby → refused .standbyOnly) ∧
      (item.inRange i x → item.standbyOnly = false ∨ s.op = .standby →
        ∃ t, exec (.configure ⟨.site, []⟩) s = .next t ∧
          Answered s t .site r rest (.ok ([code, byteOf i] ++ halfBytes x)) ∧ SameEngine s t ∧
          SameSite { s with items := t.items } t ∧
          (item ≠ .adjacency → readItem item i t.items = some x ∧
            ∀ j, j ≠ i → readItem item j t.items = readItem item j s.items) ∧
          (∀ other, other ≠ item → ∀ j, readItem other j t.items = readItem other j s.items) ∧
          (∀ a b : Sector, item = .adjacency → i = a.val * 16 + b.val →
            t.items.adjacency.adjacent a b = (x == 1) ∧ t.items.adjacency.adjacent b a = (x == 1) ∧
            ∀ c d : Sector, ¬ (c = a ∧ d = b) → ¬ (c = b ∧ d = a) →
              t.items.adjacency.adjacent c d = s.items.adjacency.adjacent c d)))

/-- R176: READ_CONFIG answers the stored value in every operating state and changes nothing; an unknown item or an
index outside the item's range is BAD_PARAMETER, the ranges being those of 11.4; ADJACENCY answers the set of a sector's neighbours and the enabled sets
are answered whole; a value just written reads back. -/
def Obligations.ReadConfigAnswersTheStoredValue : Prop :=
  (∀ (s : State) r rest code i, s.serving .site .readConfig r rest → parseReadConfig r.params = some (code, i) →
    (∀ item v, ConfigItem.ofCode? code = some item → readItem item i s.items = some v →
      ∃ t, exec (.readConfig ⟨.site, []⟩) s = .next t ∧ NothingElse s t ∧
        Answered s t .site r rest (.ok ([code, byteOf i] ++ halfBytes v))) ∧
    (ConfigItem.ofCode? code = none ∨ (∃ item, ConfigItem.ofCode? code = some item ∧ readItem item i s.items = none) →
      ∃ t, exec (.readConfig ⟨.site, []⟩) s = .next t ∧ NothingElse s t ∧
        Answered s t .site r rest (.no .badParameter))) ∧
  (∀ (item : ConfigItem) (c : ConfigItems) i, readItem item i c ≠ none ↔ i ≤ item.lastIndex) ∧
  (∀ (c : ConfigItems) (a : Sector), ∃ v : SectorSet, readItem .adjacency a.val c = some v.toNat ∧
    ∀ b : Sector, v.getLsbD b.val = c.adjacency.adjacent a b) ∧
  (∀ c : ConfigItems, readItem .sectorsEnabled 0 c = some c.sectorsEnabled.toNat ∧
    readItem .carriersEnabled 0 c = some c.carriersEnabled.toNat) ∧
  (∀ (item : ConfigItem) i x (c c' : ConfigItems), item.standbyOnly = true → item ≠ .adjacency →
    writeItem item i x c = some c' → readItem item i c' = some x) ∧
  (∀ (a b : Sector) x (c c' : ConfigItems), writeItem .adjacency (a.val * 16 + b.val) x c = some c' →
    c'.adjacency.adjacent a b = (x == 1) ∧ c'.adjacency.adjacent b a = (x == 1))

/-- R179: STATUS_READ returns the latched events and clears them, with the states and counts of the part. -/
def Obligations.StatusReadTakesTheEvents : Prop :=
  ∀ (s : State) r rest, s.serving .site .statusRead r rest → r.params = [] →
    ∃ t e2 e1 e0, exec (.statusRead ⟨.site, []⟩) s = .next t ∧ t.events = 0 ∧ t.eng = s.eng ∧
      t.freeIndex = s.freeIndex ∧ SameSite s t ∧
      Answered s t .site r rest (.ok ([e2, e1, e0, byteOf s.op.code, byteOf s.timer.state.code] ++
        halfBytes s.timer.missed ++ halfBytes s.timer.frameCounter.toNat)) ∧
      ∀ e : Event, (e2.toNat * 65536 + e1.toNat * 256 + e0.toNat).testBit e.number = e.isIn s.events

/-- R181, 11.3: PORT_STATUS shows the five ports, SP with its own request executing, and changes nothing: they are the
ports as what reached the timer meanwhile left them (log 28). -/
def Obligations.PortStatusShowsThePorts : Prop :=
  ∀ (s u : State) r rest during, s.serving .site .portStatus r rest → r.params = [] →
    u = during.foldl State.onTimer s → (u.port .site).rq = r :: rest →
    let first (q : Port) : Byte := byteOf (q.health.code * 64 + q.badRun * 16 + q.goodRun)
    ∃ t payload, exec (.portStatus ⟨.site, during⟩) s = .next t ∧ NothingElse u t ∧
      Answered u t .site r rest (.ok payload) ∧ payload.length = 24 ∧
      (∀ n : Sector, (payload.drop (4 * n.val)).take 4 =
        [first (u.port (.sector n)), byteOf (u.port (.sector n)).keepalive,
         byteOf ((u.port (.sector n)).rq.length * 16 + (u.port (.sector n)).lastIntake.code * 2),
         (if (u.port (.sector n)).noticeLost then 0x80 else 0) |||
         (if .sectorDetach n ∈ u.arb.internal then 0x40 else 0) ||| byteOf (u.port (.sector n)).oq.length]) ∧
      (payload.drop 16).take 4 =
        [first (u.port .site), byteOf (u.port .site).keepalive,
         byteOf (rest.length * 16 + (u.port .site).lastIntake.code * 2 + 1),
         (if .siteAbsence ∈ u.arb.internal then 0x40 else 0) ||| byteOf (u.port .site).oq.length] ∧
      ∀ n : Sector, payload[20 + n.val]? = some ((u.port (.sector n)).notices.setWidth 8)

/-! ### Invariants of every step -/

/-- R167, R174: the machine right after reset is lawful. -/
def Obligations.ResetIsLawful : Prop :=
  State.reset.portsLawful ∧ State.reset.standbyLawful ∧ State.reset.eng.lawful ∧ State.reset.eng.tagsLawful ∧
  State.reset.eng.gridLawful ∧ State.reset.eng.linksLawful ∧ State.reset.eng.shedLawful

/-- R152, R159: every step keeps the law of the ports' queues, so that a response always finds room. -/
def Obligations.StepKeepsPortsLawful : Prop :=
  ∀ s t : State, s.portsLawful → step s = .next t → t.portsLawful

/-- R133, R144 to R146, R168: every step keeps the law of the stopped part. -/
def Obligations.StepKeepsStandbyLawful : Prop :=
  ∀ s t : State, s.standbyLawful → step s = .next t → t.standbyLawful

/-- R23, R66, R87: every step keeps the tables canonical, the lists within the grants in use, and the two loads equal to
the sums of the costs of the counted grants. R23, R31, R32, R66, R103: with these, it keeps the laws of the links and
lists: no id twice in the Admission List, every grant once in its subscriber's list and at most four of them counted, the
law of chains, and one Change List entry for each PENDING, CHAINED and RELEASING grant and no other. R87, R92, R95: with
all of these, every step keeps the second law of the load, whatever grant it ends: at or under the ceiling, or no
candidate counted. -/
def Obligations.StepKeepsLoadLawful : Prop :=
  (∀ s t : State, s.eng.lawful → step s = .next t → t.eng.lawful) ∧
  (∀ s t : State, s.eng.lawful → s.eng.linksLawful → step s = .next t → t.eng.linksLawful) ∧
  (∀ s t : State, s.eng.lawful → s.eng.linksLawful → s.eng.shedLawful → step s = .next t → t.eng.shedLawful)

/-- R104: every step keeps the law of the Tag Map. -/
def Obligations.StepKeepsTagsLawful : Prop :=
  ∀ s t : State, s.eng.tablesWf → s.eng.tagsLawful → step s = .next t → t.eng.tagsLawful

/-- R2, R8, R9, R13: every step keeps the law of the grid: no two counted grants share a cell, none lies on a blocked
tile, and every held cell is one of its holder's. -/
def Obligations.StepKeepsGridLawful : Prop :=
  ∀ s t : State, s.eng.lawful → s.eng.gridLawful → step s = .next t → t.eng.gridLawful

/-- R12, R19, R97, R120, R123, R168, R175: a cell becomes held by GRANT_REQUEST alone; RUNNING is entered by START
alone; and the blocked flags, the ceiling, the Class Map, the templates and the configuration items are changed by
their own request or by device reset alone. -/
def Obligations.EachTableHasItsWriter : Prop :=
  ∀ (c : Instr) (s t : State), exec c s = .next t →
    (∀ key, Table.get? s.eng.cells key = none → Table.get? t.eng.cells key ≠ none → ∃ p, c = .grantRequest p) ∧
    (t.op = .running → s.op ≠ .running → ∃ p time, c = .start p time) ∧
    (t.eng.blocked ≠ s.eng.blocked → c = .deviceReset ∨ ∃ p, c = .blockTiles p) ∧
    (t.eng.ceiling ≠ s.eng.ceiling → c = .deviceReset ∨ ∃ p, c = .setCeiling p) ∧
    (t.classes ≠ s.classes → c = .deviceReset ∨ ∃ p, c = .classWrite p) ∧
    (t.templates ≠ s.templates → c = .deviceReset ∨ ∃ p, c = .templateWrite p) ∧
    (t.items ≠ s.items → c = .deviceReset ∨ ∃ p, c = .configure p)

end
end

