-- ==== Sys2Proof/Laws/State.lean ====
section
/-! SUPPORT. One lemma per field per named update of State, Ports and Work, each true by computation. -/

namespace Sys2Proof.Machine

/-! ### withPending -/

@[simp] theorem State.withPending_pending (s : State) (cs : List Instr) : (s.withPending cs).pending = cs := rfl
@[simp] theorem State.withPending_op (s : State) (cs : List Instr) : (s.withPending cs).op = s.op := rfl
@[simp] theorem State.withPending_items (s : State) (cs : List Instr) : (s.withPending cs).items = s.items := rfl
@[simp] theorem State.withPending_events (s : State) (cs : List Instr) : (s.withPending cs).events = s.events := rfl
@[simp] theorem State.withPending_timer (s : State) (cs : List Instr) : (s.withPending cs).timer = s.timer := rfl
@[simp] theorem State.withPending_keying (s : State) (cs : List Instr) : (s.withPending cs).keying = s.keying := rfl
@[simp] theorem State.withPending_eng (s : State) (cs : List Instr) : (s.withPending cs).eng = s.eng := rfl
@[simp] theorem State.withPending_classes (s : State) (cs : List Instr) : (s.withPending cs).classes = s.classes := rfl
@[simp] theorem State.withPending_templates (s : State) (cs : List Instr) :
    (s.withPending cs).templates = s.templates := rfl
@[simp] theorem State.withPending_arb (s : State) (cs : List Instr) : (s.withPending cs).arb = s.arb := rfl
@[simp] theorem State.withPending_ports (s : State) (cs : List Instr) : (s.withPending cs).ports = s.ports := rfl
@[simp] theorem State.withPending_freeIndex (s : State) (cs : List Instr) :
    (s.withPending cs).freeIndex = s.freeIndex := rfl

/-! ### setPort -/

@[simp] theorem State.setPort_pending (s : State) (p : PortId) (v : Port) : (s.setPort p v).pending = s.pending := rfl
@[simp] theorem State.setPort_op (s : State) (p : PortId) (v : Port) : (s.setPort p v).op = s.op := rfl
@[simp] theorem State.setPort_items (s : State) (p : PortId) (v : Port) : (s.setPort p v).items = s.items := rfl
@[simp] theorem State.setPort_events (s : State) (p : PortId) (v : Port) : (s.setPort p v).events = s.events := rfl
@[simp] theorem State.setPort_timer (s : State) (p : PortId) (v : Port) : (s.setPort p v).timer = s.timer := rfl
@[simp] theorem State.setPort_keying (s : State) (p : PortId) (v : Port) : (s.setPort p v).keying = s.keying := rfl
@[simp] theorem State.setPort_eng (s : State) (p : PortId) (v : Port) : (s.setPort p v).eng = s.eng := rfl
@[simp] theorem State.setPort_classes (s : State) (p : PortId) (v : Port) : (s.setPort p v).classes = s.classes := rfl
@[simp] theorem State.setPort_templates (s : State) (p : PortId) (v : Port) :
    (s.setPort p v).templates = s.templates := rfl
@[simp] theorem State.setPort_arb (s : State) (p : PortId) (v : Port) : (s.setPort p v).arb = s.arb := rfl
@[simp] theorem State.setPort_freeIndex (s : State) (p : PortId) (v : Port) :
    (s.setPort p v).freeIndex = s.freeIndex := rfl

/-! ### latch -/

@[simp] theorem State.latch_pending (s : State) (e : Event) : (s.latch e).pending = s.pending := rfl
@[simp] theorem State.latch_op (s : State) (e : Event) : (s.latch e).op = s.op := rfl
@[simp] theorem State.latch_items (s : State) (e : Event) : (s.latch e).items = s.items := rfl
@[simp] theorem State.latch_events (s : State) (e : Event) : (s.latch e).events = latchEvent e s.events := rfl
@[simp] theorem State.latch_timer (s : State) (e : Event) : (s.latch e).timer = s.timer := rfl
@[simp] theorem State.latch_keying (s : State) (e : Event) : (s.latch e).keying = s.keying := rfl
@[simp] theorem State.latch_eng (s : State) (e : Event) : (s.latch e).eng = s.eng := rfl
@[simp] theorem State.latch_classes (s : State) (e : Event) : (s.latch e).classes = s.classes := rfl
@[simp] theorem State.latch_templates (s : State) (e : Event) : (s.latch e).templates = s.templates := rfl
@[simp] theorem State.latch_arb (s : State) (e : Event) : (s.latch e).arb = s.arb := rfl
@[simp] theorem State.latch_ports (s : State) (e : Event) : (s.latch e).ports = s.ports := rfl
@[simp] theorem State.latch_freeIndex (s : State) (e : Event) : (s.latch e).freeIndex = s.freeIndex := rfl
@[simp] theorem State.latch_port (s : State) (e : Event) (p : PortId) : (s.latch e).port p = s.port p := rfl

/-! ### handOver -/

@[simp] theorem State.handOver_pending (s : State) (p : PortId) (q : List Request) :
    (s.handOver p q).pending = s.pending := rfl
@[simp] theorem State.handOver_op (s : State) (p : PortId) (q : List Request) : (s.handOver p q).op = s.op := rfl
@[simp] theorem State.handOver_items (s : State) (p : PortId) (q : List Request) :
    (s.handOver p q).items = s.items := rfl
@[simp] theorem State.handOver_events (s : State) (p : PortId) (q : List Request) :
    (s.handOver p q).events = s.events := rfl
@[simp] theorem State.handOver_timer (s : State) (p : PortId) (q : List Request) :
    (s.handOver p q).timer = s.timer := rfl
@[simp] theorem State.handOver_keying (s : State) (p : PortId) (q : List Request) :
    (s.handOver p q).keying = s.keying := rfl
@[simp] theorem State.handOver_eng (s : State) (p : PortId) (q : List Request) : (s.handOver p q).eng = s.eng := rfl
@[simp] theorem State.handOver_classes (s : State) (p : PortId) (q : List Request) :
    (s.handOver p q).classes = s.classes := rfl
@[simp] theorem State.handOver_templates (s : State) (p : PortId) (q : List Request) :
    (s.handOver p q).templates = s.templates := rfl
@[simp] theorem State.handOver_freeIndex (s : State) (p : PortId) (q : List Request) :
    (s.handOver p q).freeIndex = s.freeIndex := rfl
@[simp] theorem State.handOver_arb (s : State) (p : PortId) (q : List Request) :
    (s.handOver p q).arb = { s.arb with executing := some p, lastServed := s.servedAfter p } := rfl
@[simp] theorem State.handOver_ports (s : State) (p : PortId) (q : List Request) :
    (s.handOver p q).ports = s.ports.set p { s.port p with rq := q } := rfl

/-! ### stopTimer and drainComplete -/

@[simp] theorem State.stopTimer_pending (s : State) : s.stopTimer.pending = s.pending := rfl
@[simp] theorem State.stopTimer_op (s : State) : s.stopTimer.op = s.op := rfl
@[simp] theorem State.stopTimer_items (s : State) : s.stopTimer.items = s.items := rfl
@[simp] theorem State.stopTimer_events (s : State) : s.stopTimer.events = s.events := rfl
@[simp] theorem State.stopTimer_eng (s : State) : s.stopTimer.eng = s.eng := rfl
@[simp] theorem State.stopTimer_classes (s : State) : s.stopTimer.classes = s.classes := rfl
@[simp] theorem State.stopTimer_templates (s : State) : s.stopTimer.templates = s.templates := rfl
@[simp] theorem State.stopTimer_arb (s : State) : s.stopTimer.arb = s.arb := rfl
@[simp] theorem State.stopTimer_ports (s : State) : s.stopTimer.ports = s.ports := rfl
@[simp] theorem State.stopTimer_freeIndex (s : State) : s.stopTimer.freeIndex = s.freeIndex := rfl
@[simp] theorem State.stopTimer_keying (s : State) : s.stopTimer.keying = ⟨emptyAirMap, 0⟩ := rfl
@[simp] theorem State.stopTimer_timer (s : State) : s.stopTimer.timer =
    { s.timer with state := .stopped, missed := 0, lostMark := false, slot := none } := rfl

@[simp] theorem State.drainComplete_pending (s : State) : s.drainComplete.pending = s.pending := rfl
@[simp] theorem State.drainComplete_op (s : State) : s.drainComplete.op = .standby := rfl
@[simp] theorem State.drainComplete_items (s : State) : s.drainComplete.items = s.items := rfl
@[simp] theorem State.drainComplete_events (s : State) :
    s.drainComplete.events = latchEvent .standbyReached s.events := rfl
@[simp] theorem State.drainComplete_eng (s : State) :
    s.drainComplete.eng = { s.eng with subs := [], tagMap := [] } := rfl
@[simp] theorem State.drainComplete_classes (s : State) : s.drainComplete.classes = s.classes := rfl
@[simp] theorem State.drainComplete_templates (s : State) : s.drainComplete.templates = s.templates := rfl
@[simp] theorem State.drainComplete_arb (s : State) : s.drainComplete.arb = s.arb := rfl
@[simp] theorem State.drainComplete_ports (s : State) : s.drainComplete.ports = s.ports := rfl
@[simp] theorem State.drainComplete_freeIndex (s : State) : s.drainComplete.freeIndex = s.freeIndex := rfl
@[simp] theorem State.drainComplete_keying (s : State) : s.drainComplete.keying = ⟨emptyAirMap, 0⟩ := rfl
@[simp] theorem State.drainComplete_timer (s : State) : s.drainComplete.timer =
    { s.timer with state := .stopped, missed := 0, lostMark := false, slot := none } := rfl

/-! ### Work -/

@[simp] theorem Work.of_eng (e : Engine) : (Work.of e).eng = e := rfl
@[simp] theorem Work.of_out (e : Engine) : (Work.of e).out = [] := rfl
@[simp] theorem Work.of_ended (e : Engine) : (Work.of e).ended = 0 := rfl
@[simp] theorem Work.of_raised (e : Engine) : (Work.of e).raised = 0 := rfl
@[simp] theorem Work.say_eng (w : Work) (n : Sector) (x : Notice) : (w.say n x).eng = w.eng := rfl
@[simp] theorem Work.say_out (w : Work) (n : Sector) (x : Notice) : (w.say n x).out = w.out ++ [(n, x)] := rfl
@[simp] theorem Work.say_ended (w : Work) (n : Sector) (x : Notice) : (w.say n x).ended = w.ended := rfl
@[simp] theorem Work.say_raised (w : Work) (n : Sector) (x : Notice) : (w.say n x).raised = w.raised := rfl
@[simp] theorem Work.tally_eng (w : Work) : w.tally.eng = w.eng := rfl
@[simp] theorem Work.tally_out (w : Work) : w.tally.out = w.out := rfl
@[simp] theorem Work.tally_ended (w : Work) : w.tally.ended = w.ended + 1 := rfl
@[simp] theorem Work.tally_raised (w : Work) : w.tally.raised = w.raised := rfl
@[simp] theorem Work.raise_eng (w : Work) (e : Event) : (w.raise e).eng = w.eng := rfl
@[simp] theorem Work.raise_out (w : Work) (e : Event) : (w.raise e).out = w.out := rfl
@[simp] theorem Work.raise_ended (w : Work) (e : Event) : (w.raise e).ended = w.ended := rfl
@[simp] theorem Work.raise_raised (w : Work) (e : Event) : (w.raise e).raised = latchEvent e w.raised := rfl
@[simp] theorem Work.onEngine_eng (w : Work) (f : Engine → Engine) : (w.onEngine f).eng = f w.eng := rfl
@[simp] theorem Work.onEngine_out (w : Work) (f : Engine → Engine) : (w.onEngine f).out = w.out := rfl
@[simp] theorem Work.onEngine_ended (w : Work) (f : Engine → Engine) : (w.onEngine f).ended = w.ended := rfl
@[simp] theorem Work.onEngine_raised (w : Work) (f : Engine → Engine) : (w.onEngine f).raised = w.raised := rfl
@[simp] theorem Work.sayEnded_eng (w : Work) (g : Grant) (i : Nat) (c : EndCause) :
    (w.sayEnded g i c).eng = w.eng := rfl
@[simp] theorem Work.sayEnded_ended (w : Work) (g : Grant) (i : Nat) (c : EndCause) :
    (w.sayEnded g i c).ended = w.ended := rfl
@[simp] theorem Work.sayEnded_raised (w : Work) (g : Grant) (i : Nat) (c : EndCause) :
    (w.sayEnded g i c).raised = w.raised := rfl

end Sys2Proof.Machine
end

