-- ==== Sys2Proof/Laws/Ports.lean ====
section
/-! SUPPORT. The Link Ports: reading a port after an update, and what the placing of notices (R154) and of responses
(R152), the flush (R153) and the end of the engine's work can do to a state. -/

namespace Sys2Proof.Machine

/-! ### Reading a port after an update -/

theorem Ports.get_set_self (ps : Ports) (p : PortId) (v : Port) : (ps.set p v).get p = v := by
  match p with
  | .site => rfl
  | .sector 0 => rfl
  | .sector 1 => rfl
  | .sector 2 => rfl
  | .sector 3 => rfl

theorem Ports.get_set_ne (ps : Ports) {p q : PortId} (v : Port) (h : q ≠ p) : (ps.set p v).get q = ps.get q := by
  match p, q with
  | .site, .site => exact absurd rfl h
  | .site, .sector 0 | .site, .sector 1 | .site, .sector 2 | .site, .sector 3 => rfl
  | .sector 0, .site | .sector 1, .site | .sector 2, .site | .sector 3, .site => rfl
  | .sector 0, .sector 0 | .sector 1, .sector 1 | .sector 2, .sector 2 | .sector 3, .sector 3 => exact absurd rfl h
  | .sector 0, .sector 1 | .sector 0, .sector 2 | .sector 0, .sector 3 => rfl
  | .sector 1, .sector 0 | .sector 1, .sector 2 | .sector 1, .sector 3 => rfl
  | .sector 2, .sector 0 | .sector 2, .sector 1 | .sector 2, .sector 3 => rfl
  | .sector 3, .sector 0 | .sector 3, .sector 1 | .sector 3, .sector 2 => rfl

/-- Two records of ports that read the same at every port are the same. -/
theorem Ports.ext_get {a b : Ports} (h : ∀ p, a.get p = b.get p) : a = b := by
  cases a; cases b
  have h0 := h (.sector 0); have h1 := h (.sector 1); have h2 := h (.sector 2); have h3 := h (.sector 3)
  have h4 := h .site
  simp only [Ports.get] at h0 h1 h2 h3 h4
  simp [h0, h1, h2, h3, h4]

theorem State.port_eq (s : State) (p : PortId) : s.port p = s.ports.get p := rfl

@[simp] theorem State.port_setPort_self (s : State) (p : PortId) (v : Port) : (s.setPort p v).port p = v :=
  Ports.get_set_self _ _ _

theorem State.port_setPort_ne (s : State) {p q : PortId} (v : Port) (h : q ≠ p) :
    (s.setPort p v).port q = s.port q := Ports.get_set_ne _ _ h

theorem State.port_setPort (s : State) (p q : PortId) (v : Port) :
    (s.setPort p v).port q = if q = p then v else s.port q := by
  by_cases h : q = p
  · subst h; simp
  · simp [h, State.port_setPort_ne s v h]

@[simp] theorem State.handOver_port_self (s : State) (p : PortId) (q : List Request) :
    (s.handOver p q).port p = { s.port p with rq := q } := Ports.get_set_self _ _ _

theorem State.handOver_port_ne (s : State) {p p' : PortId} (q : List Request) (h : p' ≠ p) :
    (s.handOver p q).port p' = s.port p' := Ports.get_set_ne _ _ h

/-! ### Notices -/

theorem PortKept.refl (a : Port) : PortKept a a := ⟨rfl, rfl, rfl, rfl, rfl, rfl, rfl, rfl⟩

theorem PortKept.trans {a b c : Port} (h : PortKept a b) (h' : PortKept b c) : PortKept a c := by
  obtain ⟨h1, h2, h3, h4, h5, h6, h7, h8⟩ := h
  obtain ⟨k1, k2, k3, k4, k5, k6, k7, k8⟩ := h'
  exact ⟨k1.trans h1, k2.trans h2, k3.trans h3, k4.trans h4, k5.trans h5, k6.trans h6, k7.trans h7, k8.trans h8⟩

theorem PortNoticed.refl (a : Port) : PortNoticed a a := ⟨PortKept.refl a, [], by simp⟩

theorem PortNoticed.trans {a b c : Port} (h : PortNoticed a b) (h' : PortNoticed b c) : PortNoticed a c := by
  obtain ⟨hk, ns, hn⟩ := h
  obtain ⟨hk', ns', hn'⟩ := h'
  exact ⟨hk.trans hk', ns ++ ns', by rw [hn', hn]; simp⟩

/-- Only the ports and the events differ. -/
def OnlyPortsAndEvents (s t : State) : Prop :=
  t.pending = s.pending ∧ t.op = s.op ∧ t.items = s.items ∧ t.timer = s.timer ∧ t.keying = s.keying ∧
  t.eng = s.eng ∧ t.classes = s.classes ∧ t.templates = s.templates ∧ t.arb = s.arb ∧ t.freeIndex = s.freeIndex

theorem OnlyPortsAndEvents.refl (s : State) : OnlyPortsAndEvents s s :=
  ⟨rfl, rfl, rfl, rfl, rfl, rfl, rfl, rfl, rfl, rfl⟩

theorem OnlyPortsAndEvents.trans {s t u : State} (h : OnlyPortsAndEvents s t) (h' : OnlyPortsAndEvents t u) :
    OnlyPortsAndEvents s u := by
  obtain ⟨h1, h2, h3, h4, h5, h6, h7, h8, h9, h10⟩ := h
  obtain ⟨k1, k2, k3, k4, k5, k6, k7, k8, k9, k10⟩ := h'
  exact ⟨k1.trans h1, k2.trans h2, k3.trans h3, k4.trans h4, k5.trans h5, k6.trans h6, k7.trans h7,
    k8.trans h8, k9.trans h9, k10.trans h10⟩

/-- Whether a notice for port q is appended, lost or discarded (R154). -/
def Port.noticed (q : Port) (x : Notice) : Port :=
  if q.health = .absent then q
  else if !x.enabledIn q.notices then q
  else if q.room then { q with oq := q.oq ++ [.notice x] }
  else { q with noticeLost := true, txn := q.txn.map (fun t => { t with lostDuring := true }) }

/-- Whether the notice is lost, which latches NOTICE_LOST (R154). -/
def Port.loses (q : Port) (x : Notice) : Bool :=
  decide (q.health ≠ .absent) && x.enabledIn q.notices && !q.room

/-- R154 in one equation. -/
theorem State.placeNotice_eq (s : State) (n : Sector) (x : Notice) :
    s.placeNotice n x = { s.setPort (.sector n) ((s.port (.sector n)).noticed x) with
      events := if (s.port (.sector n)).loses x then latchEvent (.noticeLost n) s.events else s.events } := by
  have hself : s.setPort (.sector n) (s.port (.sector n)) = s := by
    have : s.ports.set (.sector n) (s.port (.sector n)) = s.ports := by
      apply Ports.ext_get
      intro p
      by_cases h : p = .sector n
      · subst h; rw [Ports.get_set_self]; rfl
      · rw [Ports.get_set_ne _ _ h]
    unfold State.setPort; rw [this]
  unfold State.placeNotice Port.noticed Port.loses
  by_cases h1 : (s.port (.sector n)).health = .absent
  · simp [h1, hself]
  · by_cases h2 : x.enabledIn (s.port (.sector n)).notices
    · by_cases h3 : (s.port (.sector n)).room
      · simp [h1, h2, h3]; rfl
      · simp [h1, h2, h3]; rfl
    · simp [h1, h2, hself]

theorem Port.noticed_kept (q : Port) (x : Notice) : PortNoticed q (q.noticed x) := by
  unfold Port.noticed
  split
  · exact PortNoticed.refl q
  · split
    · exact PortNoticed.refl q
    · split
      · exact ⟨⟨rfl, rfl, rfl, rfl, rfl, rfl, rfl, rfl⟩, [x], rfl⟩
      · exact ⟨⟨rfl, rfl, rfl, rfl, rfl, rfl, rfl, rfl⟩, [], by simp⟩

/-- What placing a notice can do. -/
theorem State.placeNotice_spec (s : State) (n : Sector) (x : Notice) :
    OnlyPortsAndEvents s (s.placeNotice n x) ∧
    (s.placeNotice n x).port (.sector n) = (s.port (.sector n)).noticed x ∧
    (∀ p, p ≠ .sector n → (s.placeNotice n x).port p = s.port p) ∧
    (s.placeNotice n x).events =
      if (s.port (.sector n)).loses x then latchEvent (.noticeLost n) s.events else s.events := by
  rw [State.placeNotice_eq]
  refine ⟨⟨rfl, rfl, rfl, rfl, rfl, rfl, rfl, rfl, rfl, rfl⟩, ?_, ?_, rfl⟩
  · exact Ports.get_set_self s.ports (.sector n) ((s.port (.sector n)).noticed x)
  · intro p hp; exact Ports.get_set_ne s.ports _ hp

/-- What placing several notices can do: notices reach the ports they are for, and nothing else changes but the
events. -/
theorem State.placeNotices_spec (out : List (Sector × Notice)) (s : State) :
    OnlyPortsAndEvents s (s.placeNotices out) ∧
    (∀ n, PortNoticed (s.port (.sector n)) ((s.placeNotices out).port (.sector n))) ∧
    (s.placeNotices out).port .site = s.port .site ∧
    (∀ n, (∀ x ∈ out, x.1 ≠ n) → (s.placeNotices out).port (.sector n) = s.port (.sector n)) := by
  induction out generalizing s with
  | nil => exact ⟨OnlyPortsAndEvents.refl s, fun n => PortNoticed.refl _, rfl, fun _ _ => rfl⟩
  | cons x out ih =>
    obtain ⟨n, y⟩ := x
    obtain ⟨h1, h2, h3, _⟩ := State.placeNotice_spec s n y
    obtain ⟨k1, k2, k3, k4⟩ := ih (s.placeNotice n y)
    have hstep : s.placeNotices ((n, y) :: out) = (s.placeNotice n y).placeNotices out := rfl
    rw [hstep]
    refine ⟨h1.trans k1, ?_, ?_, ?_⟩
    · intro m
      refine PortNoticed.trans ?_ (k2 m)
      by_cases hm : m = n
      · subst hm; rw [h2]; exact Port.noticed_kept _ _
      · rw [h3 _ (by simpa using hm)]; exact PortNoticed.refl _
    · rw [k3, h3 _ (by simp)]
    · intro m hm
      rw [k4 m (fun x hx => hm x (List.mem_cons_of_mem _ hx)), h3]
      intro e
      injection e with e
      exact hm (n, y) List.mem_cons_self e.symm

@[simp] theorem State.placeNotices_nil (s : State) : s.placeNotices [] = s := rfl

theorem State.placeNotices_cons (s : State) (n : Sector) (x : Notice) (out : List (Sector × Notice)) :
    s.placeNotices ((n, x) :: out) = (s.placeNotice n x).placeNotices out := rfl

theorem State.placeNotices_append (s : State) (a b : List (Sector × Notice)) :
    s.placeNotices (a ++ b) = (s.placeNotices a).placeNotices b := by
  simp [State.placeNotices, List.foldl_append]

/-! ### Absorbing the engine's work -/

@[simp] theorem State.absorb_eng (s : State) (w : Work) : (s.absorb w).eng = w.eng :=
  (State.placeNotices_spec w.out _).1.2.2.2.2.2.1

@[simp] theorem State.absorb_pending (s : State) (w : Work) : (s.absorb w).pending = s.pending :=
  (State.placeNotices_spec w.out _).1.1

@[simp] theorem State.absorb_op (s : State) (w : Work) : (s.absorb w).op = s.op :=
  (State.placeNotices_spec w.out _).1.2.1

@[simp] theorem State.absorb_items (s : State) (w : Work) : (s.absorb w).items = s.items :=
  (State.placeNotices_spec w.out _).1.2.2.1

@[simp] theorem State.absorb_timer (s : State) (w : Work) : (s.absorb w).timer = s.timer :=
  (State.placeNotices_spec w.out _).1.2.2.2.1

@[simp] theorem State.absorb_keying (s : State) (w : Work) : (s.absorb w).keying = s.keying :=
  (State.placeNotices_spec w.out _).1.2.2.2.2.1

@[simp] theorem State.absorb_classes (s : State) (w : Work) : (s.absorb w).classes = s.classes :=
  (State.placeNotices_spec w.out _).1.2.2.2.2.2.2.1

@[simp] theorem State.absorb_templates (s : State) (w : Work) : (s.absorb w).templates = s.templates :=
  (State.placeNotices_spec w.out _).1.2.2.2.2.2.2.2.1

@[simp] theorem State.absorb_arb (s : State) (w : Work) : (s.absorb w).arb = s.arb :=
  (State.placeNotices_spec w.out _).1.2.2.2.2.2.2.2.2.1

@[simp] theorem State.absorb_freeIndex (s : State) (w : Work) : (s.absorb w).freeIndex = s.freeIndex :=
  (State.placeNotices_spec w.out _).1.2.2.2.2.2.2.2.2.2

theorem State.absorb_noticed (s : State) (w : Work) (n : Sector) :
    PortNoticed (s.port (.sector n)) ((s.absorb w).port (.sector n)) :=
  (State.placeNotices_spec w.out _).2.1 n

@[simp] theorem State.absorb_site (s : State) (w : Work) : (s.absorb w).port .site = s.port .site :=
  (State.placeNotices_spec w.out _).2.2.1

theorem State.absorb_port_of_silent (s : State) (w : Work) (n : Sector) (h : ∀ x ∈ w.out, x.1 ≠ n) :
    (s.absorb w).port (.sector n) = s.port (.sector n) :=
  (State.placeNotices_spec w.out _).2.2.2 n h

/-- Work that says nothing and raises nothing only replaces the engine's tables. -/
theorem State.absorb_quiet (s : State) (w : Work) (ho : w.out = []) (hr : w.raised = 0) :
    s.absorb w = { s with eng := w.eng } := by
  unfold State.absorb
  rw [ho, hr]
  simp

/-! ### The flush -/

theorem State.flushPort_spec (p : PortId) (own : Bool) (s : State) :
    (s.flushPort p own).port p = (s.port p).flush (own && !s.arb.discard) ∧
    (∀ q, q ≠ p → (s.flushPort p own).port q = s.port q) ∧
    (s.flushPort p own) = { s with
      ports := (s.flushPort p own).ports
      arb := if !own && s.arb.executing = some p then { s.arb with discard := true } else s.arb } := by
  unfold State.flushPort
  by_cases h : (!own && decide (s.arb.executing = some p)) = true
  · simp only [h, if_true]
    exact ⟨Ports.get_set_self _ _ _, fun q hq => Ports.get_set_ne _ _ hq, rfl⟩
  · simp only [h]
    exact ⟨Ports.get_set_self _ _ _, fun q hq => Ports.get_set_ne _ _ hq, rfl⟩

end Sys2Proof.Machine
end

