-- ==== Sys2Proof/Laws/Boundaries.lean ====
section
/-! SUPPORT. The events a set holds, and what the making of a boundary does at its instant: the delivery to the ports,
the internal items appended, the events raised. -/

namespace Sys2Proof.Machine

/-! ### The event set -/

theorem Event.number_lt (e : Event) : e.number < 22 := by
  cases e with
  | portAlert p => cases p with
    | site => decide
    | sector n => revert n; decide
  | portAbsent p => cases p with
    | site => decide
    | sector n => revert n; decide
  | noticeLost n => revert n; decide
  | _ => decide

theorem portNumber_inj {p q : PortId} (h : portNumber p = portNumber q) : p = q := by
  cases p with
  | site => cases q with
    | site => rfl
    | sector n => have := n.isLt; simp [portNumber] at h; omega
  | sector n => cases q with
    | site => have := n.isLt; simp [portNumber] at h; omega
    | sector m => simp [portNumber] at h; rw [Fin.ext h]

theorem portNumber_lt (p : PortId) : portNumber p < 5 := by
  cases p with
  | site => decide
  | sector n => have := n.isLt; simp [portNumber]; omega

theorem Event.number_inj {e f : Event} (h : e.number = f.number) : e = f := by
  cases e <;> cases f <;> simp only [Event.number] at h <;>
    first
    | rfl
    | (rename_i p q; rw [portNumber_inj (p := p) (q := q) (by omega)])
    | (rename_i p q; rw [Fin.ext (a := p) (b := q) (by omega)])
    | (exfalso; rename_i p q; have := portNumber_lt p; have := portNumber_lt q; omega)
    | (exfalso; rename_i p q; have := portNumber_lt p; have := q.isLt; omega)
    | (exfalso; rename_i p q; have := p.isLt; have := portNumber_lt q; omega)
    | (exfalso; rename_i p; have := portNumber_lt p; omega)
    | (exfalso; rename_i p; have := p.isLt; omega)
    | (exfalso; omega)

/-- What latching adds to the set (R177). -/
@[simp] theorem Event.isIn_latch (e f : Event) (set : EventSet) :
    e.isIn (latchEvent f set) = (e.isIn set || decide (e = f)) := by
  unfold Event.isIn latchEvent Event.bit
  have he := e.number_lt
  have hf := f.number_lt
  rw [BitVec.getLsbD_or, BitVec.getLsbD_ofNat, Nat.testBit_two_pow]
  by_cases h : e = f
  · subst h; simp [he]
  · have hn : f.number ≠ e.number := fun hh => h (Event.number_inj hh).symm
    simp [h, hn]

@[simp] theorem Event.isIn_empty (e : Event) : e.isIn 0 = false := by simp [Event.isIn]

/-! ### The order of several internal items -/

theorem arrange_perm {α : Type} (n : Nat) (l : List α) : (arrange n l).Perm l := by
  induction l generalizing n with
  | nil => simp [arrange]
  | cons x xs ih =>
    have hl : (arrange (n / (xs.length + 1)) xs).length = xs.length := (ih _).length_eq
    have hlt : n % (xs.length + 1) < xs.length + 1 := Nat.mod_lt _ (by omega)
    unfold arrange
    exact (List.perm_insertIdx x _ (by omega)).trans ((ih _).cons x)

/-- The items that are new stand behind the old ones, each once, in some order (R159, R160, R164). -/
theorem State.appendItems_spec (s : State) (found : List InternalItem) (hd : found.Nodup) :
    ∃ new : List InternalItem, (s.appendItems found).arb = { s.arb with internal := s.arb.internal ++ new } ∧
      new.Nodup ∧ ∀ i, i ∈ new ↔ (i ∈ found ∧ i ∉ s.arb.internal) := by
  have hmem : ∀ i, i ∈ found.filter (fun i => !s.arb.internal.contains i) ↔ (i ∈ found ∧ i ∉ s.arb.internal) := by
    intro i; simp
  have hnd := hd.filter (fun i => !s.arb.internal.contains i)
  unfold State.appendItems
  generalize hnew : found.filter (fun i => !s.arb.internal.contains i) = new at hmem hnd
  match new, hmem, hnd with
  | [], hmem, hnd => exact ⟨[], by simp, by simp, hmem⟩
  | [i], hmem, hnd => exact ⟨[i], rfl, hnd, hmem⟩
  | i :: j :: l, hmem, hnd =>
    refine ⟨arrange (Config.absenceOrder s.freeIndex) (i :: j :: l), rfl, ?_, ?_⟩
    · exact (arrange_perm _ _).nodup_iff.mpr hnd
    · intro k; rw [(arrange_perm _ _).mem_iff]; exact hmem k

/-- Only the list of internal items and the free counter can differ. -/
theorem State.appendItems_eq (s : State) (found : List InternalItem) :
    s.appendItems found = { s with
      arb := { s.arb with internal := (s.appendItems found).arb.internal }
      freeIndex := (s.appendItems found).freeIndex } := by
  unfold State.appendItems
  generalize found.filter (fun i => !s.arb.internal.contains i) = new
  match new with
  | [] => rfl
  | [_] => rfl
  | _ :: _ :: _ => rfl

/-! ### A boundary delivered to the ports -/

/-- A port after a boundary (R158 to R160). -/
def Port.atBoundary (window : Nat) (q : Port) : Port :=
  if q.goesAbsent window then
    { (q.flush false) with health := .absent, keepalive := 0, badRun := 0, goodRun := 0 }
  else { q with keepalive := q.counted window }

theorem Port.counted_eq (window : Nat) (q : Port) : q.counted window = nextKeepalive window q := by
  unfold Port.counted nextKeepalive
  cases q.health <;> simp [Health.watched]

theorem Port.goesAbsent_iff (window : Nat) (q : Port) : q.goesAbsent window = true ↔ becomesAbsent window q := by
  unfold Port.goesAbsent becomesAbsent
  rw [Port.counted_eq]
  cases q.health <;> simp [Health.watched, and_assoc]

theorem Port.atBoundary_spec (window : Nat) (q : Port) : PortAtBoundary window q (q.atBoundary window) := by
  unfold Port.atBoundary
  refine ⟨?_, ?_⟩
  · intro h
    rw [if_pos ((Port.goesAbsent_iff window q).mpr h)]
    have ht : q.txn = none := h.2.2.2
    simp [Port.flush, ht]
  · intro h
    rw [if_neg (fun hh => h ((Port.goesAbsent_iff window q).mp hh)), Port.counted_eq]

/-- What a delivery leaves as it is: all but ports, events and the mark of the executing request. -/
def OnlyDelivered (s t : State) : Prop :=
  t.pending = s.pending ∧ t.op = s.op ∧ t.items = s.items ∧ t.timer = s.timer ∧ t.keying = s.keying ∧
  t.eng = s.eng ∧ t.classes = s.classes ∧ t.templates = s.templates ∧ t.freeIndex = s.freeIndex ∧
  t.arb = { s.arb with discard := t.arb.discard }

theorem State.deliver_spec (s : State) (p : PortId) :
    OnlyDelivered s (s.deliver p) ∧
    (s.deliver p).port p = (s.port p).atBoundary (s.items.window p) ∧
    (∀ q, q ≠ p → (s.deliver p).port q = s.port q) ∧
    (s.deliver p).events =
      if (s.port p).goesAbsent (s.items.window p) then latchEvent (.portAbsent p) s.events else s.events := by
  unfold State.deliver Port.atBoundary
  by_cases h : (s.port p).goesAbsent (s.items.window p) = true
  · simp only [h, if_true]
    obtain ⟨h1, h2, h3⟩ := State.flushPort_spec p false s
    rw [Bool.false_and] at h1
    unfold State.declareAbsent
    refine ⟨?_, ?_, ?_, ?_⟩
    · rw [h3]
      refine ⟨rfl, rfl, rfl, rfl, rfl, rfl, rfl, rfl, rfl, ?_⟩
      by_cases hx : (!false && decide (s.arb.executing = some p)) = true
      · simp only [hx, if_true]; rfl
      · simp only [hx]; rfl
    · rw [State.latch_port, State.port_setPort_self, h1]
    · intro q hq
      rw [State.latch_port, State.port_setPort_ne _ _ hq, h2 q hq]
    · rw [h3]; rfl
  · simp only [h]
    exact ⟨⟨rfl, rfl, rfl, rfl, rfl, rfl, rfl, rfl, rfl, rfl⟩, State.port_setPort_self _ _ _,
      fun q hq => State.port_setPort_ne _ _ hq, rfl⟩

theorem State.deliver_list (ps : List PortId) (hd : ps.Nodup) (s : State) :
    OnlyDelivered s (ps.foldl State.deliver s) ∧
    (∀ p ∈ ps, (ps.foldl State.deliver s).port p = (s.port p).atBoundary (s.items.window p)) ∧
    (∀ p, p ∉ ps → (ps.foldl State.deliver s).port p = s.port p) ∧
    ∀ e : Event, e.isIn (ps.foldl State.deliver s).events = true ↔
      (e.isIn s.events = true ∨
        ∃ p ∈ ps, e = .portAbsent p ∧ (s.port p).goesAbsent (s.items.window p) = true) := by
  induction ps generalizing s with
  | nil =>
    refine ⟨⟨rfl, rfl, rfl, rfl, rfl, rfl, rfl, rfl, rfl, rfl⟩, by simp, by simp, by simp⟩
  | cons p ps ih =>
    obtain ⟨hp, hd'⟩ := List.nodup_cons.mp hd
    obtain ⟨k, k1, k2, k3⟩ := State.deliver_spec s p
    obtain ⟨m, m1, m2, m3⟩ := ih hd' (s.deliver p)
    obtain ⟨a1, a2, a3, a4, a5, a6, a7, a8, a9, a10⟩ := k
    obtain ⟨b1, b2, b3, b4, b5, b6, b7, b8, b9, b10⟩ := m
    have hne : ∀ q ∈ ps, q ≠ p := fun q hq hqp => hp (hqp ▸ hq)
    refine ⟨⟨b1.trans a1, b2.trans a2, b3.trans a3, b4.trans a4, b5.trans a5, b6.trans a6, b7.trans a7,
      b8.trans a8, b9.trans a9, ?_⟩, ?_, ?_, ?_⟩
    · rw [List.foldl_cons, b10, a10]
    · intro q hq
      rcases List.mem_cons.mp hq with rfl | hq
      · rw [List.foldl_cons, m2 q hp, k1]
      · rw [List.foldl_cons, m1 q hq, k2 q (hne q hq), a3]
    · intro q hq
      rw [List.mem_cons, not_or] at hq
      rw [List.foldl_cons, m2 q hq.2, k2 q hq.1]
    · intro e
      rw [List.foldl_cons, m3 e, k3, a3]
      constructor
      · rintro (h | ⟨q, hq, he, hg⟩)
        · by_cases hg : (s.port p).goesAbsent (s.items.window p) = true
          · rw [if_pos hg, Event.isIn_latch] at h
            simp only [Bool.or_eq_true, decide_eq_true_eq] at h
            rcases h with h | h
            · exact .inl h
            · exact .inr ⟨p, List.mem_cons_self, h, hg⟩
          · rw [if_neg hg] at h
            exact .inl h
        · exact .inr ⟨q, List.mem_cons_of_mem _ hq, he, by rwa [k2 q (hne q hq)] at hg⟩
      · rintro (h | ⟨q, hq, he, hg⟩)
        · left
          split
          · simp [h]
          · exact h
        · rcases List.mem_cons.mp hq with rfl | hq
          · left
            rw [if_pos hg]
            simp [he]
          · exact .inr ⟨q, hq, he, by rwa [k2 q (hne q hq)]⟩

theorem mem_allPorts (p : PortId) : p ∈ allPorts := by
  cases p with
  | site => decide
  | sector n => revert n; decide

theorem allPorts_nodup : allPorts.Nodup := by decide

/-- The internal items of a boundary, one a port (R159, R160). -/
theorem State.absenceItems_spec (s : State) :
    s.absenceItems.Nodup ∧ ∀ i, i ∈ s.absenceItems ↔ s.owesItem i := by
  have key : ∀ (b : PortId → Bool) (hold : Bool),
      (allPorts.flatMap (fun p => if b p then absenceItem hold p else [])).Nodup := by
    intro b hold
    simp only [allPorts, List.flatMap_cons, List.flatMap_nil]
    cases b (.sector 0) <;> cases b (.sector 1) <;> cases b (.sector 2) <;> cases b (.sector 3) <;>
      cases b .site <;> cases hold <;> decide
  refine ⟨key (fun p => (s.port p).goesAbsent (s.items.window p)) s.eng.hold, ?_⟩
  intro i
  unfold State.absenceItems
  rw [List.mem_flatMap]
  constructor
  · rintro ⟨p, _, hi⟩
    split at hi
    · rename_i hg
      rw [Port.goesAbsent_iff] at hg
      cases p with
      | site =>
        by_cases hh : s.eng.hold = true
        · simp only [absenceItem, hh, if_true, List.mem_singleton] at hi
          subst hi
          exact ⟨hg, hh⟩
        · simp [absenceItem, hh] at hi
      | sector n =>
        simp only [absenceItem, List.mem_singleton] at hi
        subst hi
        exact hg
    · cases hi
  · intro h
    cases i with
    | sectorDetach n =>
      refine ⟨.sector n, mem_allPorts _, ?_⟩
      rw [if_pos ((Port.goesAbsent_iff _ _).mpr h)]
      simp [absenceItem]
    | siteAbsence =>
      refine ⟨.site, mem_allPorts _, ?_⟩
      rw [if_pos ((Port.goesAbsent_iff _ _).mpr h.1)]
      simp [absenceItem, h.2]

/-- Everything a boundary does at its instant (R142, R158 to R160, R164); the timer's own state is kept. -/
theorem State.makeBoundary_spec (s : State) (time : Nat) :
    BoundaryMade s (s.makeBoundary time) time ∧
    (s.makeBoundary time).timer = { s.timer with
      lastBoundary := time, frameCounter := s.timer.frameCounter + 1, slot := some 0, fmark := true } ∧
    EventsGrow s (s.makeBoundary time) (fun _ => False) := by
  unfold State.makeBoundary State.deliverAll
  generalize hu : ({ s with
    timer := { s.timer with
      lastBoundary := time, frameCounter := s.timer.frameCounter + 1, slot := some 0, fmark := true }
    keying := { s.keying with keys := 0 }
    arb := { s.arb with pendingBoundaries := s.arb.pendingBoundaries + 1 } } : State) = u
  have hports : u.ports = s.ports := by rw [← hu]
  have hitems : u.items = s.items := by rw [← hu]
  have heng : u.eng = s.eng := by rw [← hu]
  have hport : ∀ p, u.port p = s.port p := fun p => by rw [State.port_eq, State.port_eq, hports]
  obtain ⟨hd, hp, _, he⟩ := State.deliver_list allPorts allPorts_nodup u
  obtain ⟨hnd, howes⟩ := State.absenceItems_spec u
  obtain ⟨new, ha, hn, hi⟩ := State.appendItems_spec (allPorts.foldl State.deliver u) u.absenceItems hnd
  obtain ⟨a1, a2, a3, a4, a5, a6, a7, a8, a9, a10⟩ := hd
  have hint : (allPorts.foldl State.deliver u).arb.internal = s.arb.internal := by rw [a10, ← hu]
  have hlose : ∀ p, u.losesPort p ↔ s.losesPort p := by
    intro p; unfold State.losesPort; rw [hport, hitems]
  have hown : ∀ i, u.owesItem i ↔ s.owesItem i := by
    intro i
    cases i with
    | sectorDetach n => exact hlose _
    | siteAbsence => unfold State.owesItem; simp only [hlose, heng]
  rw [State.appendItems_eq]
  refine ⟨⟨?_, ?_, ?_, ?_, ?_, ?_, ?_, ⟨new, ?_, hn, ?_⟩, ?_, ?_, ?_, ?_, ?_, ?_, ?_⟩, ?_, ?_⟩
  · show (allPorts.foldl State.deliver u).timer.frameCounter = _
    rw [a4, ← hu]
  · show (allPorts.foldl State.deliver u).timer.lastBoundary = _
    rw [a4, ← hu]
  · show (allPorts.foldl State.deliver u).timer.slot = _
    rw [a4, ← hu]
  · show (allPorts.foldl State.deliver u).timer.fmark = _
    rw [a4, ← hu]
  · show (allPorts.foldl State.deliver u).keying = _
    rw [a5, ← hu]
  · show (allPorts.foldl State.deliver u).arb.pendingBoundaries = _
    rw [a10, ← hu]
  · show (allPorts.foldl State.deliver u).arb.lastServed = _
    rw [a10, ← hu]
  · show ((allPorts.foldl State.deliver u).appendItems u.absenceItems).arb.internal = _
    rw [ha]
    show (allPorts.foldl State.deliver u).arb.internal ++ new = _
    rw [hint]
  · intro i
    rw [hi, howes, hown, hint]
  · intro p
    show PortAtBoundary _ _ ((allPorts.foldl State.deliver u).port p)
    rw [hp p (mem_allPorts p), hport, hitems]
    exact Port.atBoundary_spec _ _
  · show (allPorts.foldl State.deliver u).pending = _
    rw [a1, ← hu]
  · show (allPorts.foldl State.deliver u).op = _
    rw [a2, ← hu]
  · show (allPorts.foldl State.deliver u).items = _
    rw [a3, ← hu]
  · show (allPorts.foldl State.deliver u).eng = _
    rw [a6, ← hu]
  · show (allPorts.foldl State.deliver u).classes = _
    rw [a7, ← hu]
  · show (allPorts.foldl State.deliver u).templates = _
    rw [a8, ← hu]
  · show (allPorts.foldl State.deliver u).timer = _
    rw [a4, ← hu]
  · intro e
    show e.isIn (allPorts.foldl State.deliver u).events = true ↔ _
    rw [he e]
    have hev : u.events = s.events := by rw [← hu]
    rw [hev]
    constructor
    · rintro (h | ⟨p, _, h1, h2⟩)
      · exact .inl h
      · exact .inr (.inl ⟨p, h1, (hlose p).mp ((Port.goesAbsent_iff _ _).mp h2)⟩)
    · rintro (h | ⟨p, h1, h2⟩ | h)
      · exact .inl h
      · exact .inr ⟨p, mem_allPorts p, h1, (Port.goesAbsent_iff _ _).mpr ((hlose p).mpr h2)⟩
      · exact h.elim

/-! ### What reaches the Frame Timer -/

/-- What no event of the Frame Timer touches: the queue of commands, the operating state, the tables and the engine. -/
def State.TimerLeaves (s t : State) : Prop :=
  t.pending = s.pending ∧ t.op = s.op ∧ t.items = s.items ∧ t.eng = s.eng ∧ t.classes = s.classes ∧
    t.templates = s.templates

theorem State.TimerLeaves.refl (s : State) : s.TimerLeaves s := ⟨rfl, rfl, rfl, rfl, rfl, rfl⟩

theorem State.TimerLeaves.trans {s t u : State} (h : s.TimerLeaves t) (k : t.TimerLeaves u) : s.TimerLeaves u := by
  obtain ⟨a1, a2, a3, a4, a5, a6⟩ := h
  obtain ⟨b1, b2, b3, b4, b5, b6⟩ := k
  exact ⟨b1.trans a1, b2.trans a2, b3.trans a3, b4.trans a4, b5.trans a5, b6.trans a6⟩

theorem State.timerLeaves_makeBoundary (s : State) (time : Nat) : s.TimerLeaves (s.makeBoundary time) := by
  obtain ⟨⟨_, _, _, _, _, _, _, _, _, h1, h2, h3, h4, h5, h6⟩, _, _⟩ := State.makeBoundary_spec s time
  exact ⟨h1, h2, h3, h4, h5, h6⟩

theorem State.timerLeaves_latch (s : State) (e : Event) : s.TimerLeaves (s.latch e) := .refl s

theorem State.timerLeaves_checkLost (s : State) : s.TimerLeaves s.checkLost := by
  unfold State.checkLost
  split
  · exact ⟨rfl, rfl, rfl, rfl, rfl, rfl⟩
  · exact .refl s

theorem State.timerLeaves_withTimer (s : State) (x : Timer) : s.TimerLeaves { s with timer := x } := .refl s

theorem State.timerLeaves_raiseMissed (s : State) : s.TimerLeaves s.raiseMissed :=
  (State.timerLeaves_withTimer s _).trans (State.timerLeaves_checkLost _)

theorem State.timerLeaves_relock (s : State) : s.TimerLeaves s.relock := by
  unfold State.relock
  split
  · exact (State.timerLeaves_withTimer s _).trans (State.timerLeaves_latch _ _)
  · exact State.timerLeaves_withTimer s _

theorem State.timerLeaves_pulse (s : State) (t : Nat) : s.TimerLeaves (s.pulse t) := by
  have hb := State.timerLeaves_makeBoundary
  have hr := State.timerLeaves_relock
  unfold State.pulse
  split
  · exact .refl s
  · exact .refl s
  · exact (hr s).trans (hb _ _)
  · unfold State.pulseLocked
    dsimp only
    split
    · exact .refl s
    split
    · split
      · exact (hb s _).trans (State.timerLeaves_latch _ _)
      · exact .refl s
    split
    · exact hb s _
    · exact .refl s
  · unfold State.pulseHoldover
    dsimp only
    split
    · exact hr s
    split
    · exact .refl s
    split
    · exact ((hr s).trans (hb _ _)).trans (State.timerLeaves_latch _ _)
    · exact (hr s).trans (hb _ _)

/-- No event of the Frame Timer touches the engine, the tables or the operating state (R136 to R142, R160). -/
theorem State.timerLeaves_onTimer (s : State) (e : TimerEvent) : s.TimerLeaves (s.onTimer e) := by
  have hb := State.timerLeaves_makeBoundary
  cases e with
  | freeRunPeriodExpiry =>
    show s.TimerLeaves s.freeRunExpiry
    unfold State.freeRunExpiry
    split
    · exact hb s _
    · exact .refl s
  | lockingPeriodExpiry =>
    show s.TimerLeaves s.lockingExpiry
    unfold State.lockingExpiry
    split
    · exact State.timerLeaves_raiseMissed s
    · exact .refl s
  | lockedSyncTimeout =>
    show s.TimerLeaves s.lockedTimeout
    unfold State.lockedTimeout
    split
    · exact ((hb s _).trans (State.timerLeaves_withTimer _ _)).trans (State.timerLeaves_checkLost _)
    · exact .refl s
  | holdoverPeriodExpiry =>
    show s.TimerLeaves s.holdoverExpiry
    unfold State.holdoverExpiry
    split
    · exact (hb s _).trans (State.timerLeaves_raiseMissed _)
    · exact .refl s
  | fsyncPulse t => exact State.timerLeaves_pulse s t

/-- What reaches the timer while a request executes leaves the engine, the tables and the operating state. -/
theorem State.timerLeaves_begun (s : State) (x : Execution) (rest : List Request) :
    (s.handOver x.port rest).TimerLeaves (s.begun x rest) := by
  have h : ∀ (es : List TimerEvent) (u : State), u.TimerLeaves (es.foldl State.onTimer u) := by
    intro es
    induction es with
    | nil => exact fun u => .refl u
    | cons e es ih => exact fun u => (State.timerLeaves_onTimer u e).trans (ih _)
  exact h _ _

end Sys2Proof.Machine
end

