-- ==== Sys2Proof/Laws/Tables.lean ====
section
/-! SUPPORT. The sparse tables: what each operation reads as afterwards, and that each keeps the canonical form. -/

namespace Sys2Proof.Machine

variable {α : Type}

@[simp] theorem Table.get?_nil (i : Nat) : Table.get? ([] : Table α) i = none := rfl

theorem Table.get?_cons (k : Nat) (v : α) (t : Table α) (i : Nat) :
    Table.get? ((k, v) :: t) i = if k = i then some v else Table.get? t i := rfl

/-- A value that is read is listed. -/
theorem Table.mem_of_get? {t : Table α} {i : Nat} {v : α} (h : Table.get? t i = some v) : (i, v) ∈ t := by
  induction t with
  | nil => simp at h
  | cons x t ih =>
    obtain ⟨k, w⟩ := x
    rw [Table.get?_cons] at h
    split at h
    · rename_i hk
      obtain rfl : w = v := by simpa using h
      simp [hk]
    · exact List.mem_cons_of_mem _ (ih h)

/-- A number without a value is not listed. -/
theorem Table.get?_eq_none {t : Table α} {i : Nat} : Table.get? t i = none ↔ ∀ x ∈ t, x.1 ≠ i := by
  induction t with
  | nil => simp
  | cons x t ih =>
    obtain ⟨k, w⟩ := x
    rw [Table.get?_cons]
    by_cases hk : k = i <;> simp [hk, ih]

/-- In canonical form, a listed value is the one that is read. -/
theorem Table.get?_of_mem {t : Table α} (hwf : Table.wf t) {x : Nat × α} (h : x ∈ t) :
    Table.get? t x.1 = some x.2 := by
  induction t with
  | nil => simp at h
  | cons y t ih =>
    obtain ⟨k, w⟩ := y
    have hwf' := List.pairwise_cons.mp hwf
    rw [Table.get?_cons]
    rcases List.mem_cons.mp h with rfl | h
    · simp
    · have hne : k ≠ x.1 := Nat.ne_of_lt (hwf'.1 x h)
      simp [hne, ih hwf'.2 h]

@[simp] theorem Table.get?_set_self (t : Table α) (i : Nat) (v : α) : Table.get? (Table.set t i v) i = some v := by
  induction t with
  | nil => simp [Table.set, Table.get?_cons]
  | cons x t ih =>
    obtain ⟨k, w⟩ := x
    unfold Table.set
    split
    · simp [Table.get?_cons]
    · split
      · simp [Table.get?_cons]
      · rename_i h; simp [Table.get?_cons, h, ih]

theorem Table.get?_set_ne (t : Table α) {i j : Nat} (v : α) (h : j ≠ i) :
    Table.get? (Table.set t i v) j = Table.get? t j := by
  induction t with
  | nil => simp [Table.set, Table.get?_cons, Ne.symm h]
  | cons x t ih =>
    obtain ⟨k, w⟩ := x
    unfold Table.set
    split
    · simp [Table.get?_cons, Ne.symm h]
    · split
      · rename_i hk; subst hk; simp [Table.get?_cons, Ne.symm h]
      · simp [Table.get?_cons, ih]

theorem Table.get?_set (t : Table α) (i j : Nat) (v : α) :
    Table.get? (Table.set t i v) j = if j = i then some v else Table.get? t j := by
  by_cases h : j = i
  · subst h; simp
  · simp [h, Table.get?_set_ne t v h]

theorem Table.get?_filter_key (t : Table α) (f : Nat → Bool) (j : Nat) :
    Table.get? (t.filter (fun x => f x.1)) j = if f j then Table.get? t j else none := by
  induction t with
  | nil => simp
  | cons x t ih =>
    obtain ⟨k, w⟩ := x
    by_cases hk : f k
    · by_cases hj : k = j <;> simp_all [Table.get?_cons]
    · by_cases hj : k = j <;> simp_all [Table.get?_cons]

theorem Table.get?_del (t : Table α) (i j : Nat) :
    Table.get? (Table.del t i) j = if j = i then none else Table.get? t j := by
  unfold Table.del
  rw [Table.get?_filter_key t (fun k => k != i) j]
  by_cases h : j = i <;> simp [h]

@[simp] theorem Table.get?_del_self (t : Table α) (i : Nat) : Table.get? (Table.del t i) i = none := by
  simp [Table.get?_del]

theorem Table.get?_map (t : Table α) (f : Nat → α → α) (j : Nat) :
    Table.get? (t.map (fun x => (x.1, f x.1 x.2))) j = (Table.get? t j).map (f j) := by
  induction t with
  | nil => simp
  | cons x t ih =>
    obtain ⟨k, w⟩ := x
    by_cases hk : k = j
    · subst hk; simp [Table.get?_cons]
    · simp [Table.get?_cons, hk, ih]

theorem Table.upd_eq_map (t : Table α) (i : Nat) (f : α → α) :
    Table.upd t i f = t.map (fun x => (x.1, if x.1 = i then f x.2 else x.2)) := by
  unfold Table.upd
  apply List.map_congr_left
  intro x _
  by_cases h : x.1 = i <;> simp [h]

theorem Table.get?_upd (t : Table α) (i j : Nat) (f : α → α) :
    Table.get? (Table.upd t i f) j = (Table.get? t j).map (fun v => if j = i then f v else v) := by
  rw [Table.upd_eq_map, Table.get?_map t (fun k v => if k = i then f v else v) j]

theorem Table.get?_upd? (t : Table α) (i : Option Nat) (j : Nat) (f : α → α) :
    Table.get? (Table.upd? t i f) j = (Table.get? t j).map (fun v => if i = some j then f v else v) := by
  cases i with
  | none => simp [Table.upd?]
  | some k =>
    simp only [Table.upd?, Table.get?_upd]
    congr 1; funext v
    by_cases h : j = k
    · simp [h]
    · have h' : ¬ k = j := fun e => h e.symm
      simp [h, h']

/-! ### The canonical form -/

theorem Table.mem_set {t : Table α} {i : Nat} {v : α} {x : Nat × α} (h : x ∈ Table.set t i v) :
    x = (i, v) ∨ x ∈ t := by
  induction t with
  | nil => simpa [Table.set] using h
  | cons y t ih =>
    obtain ⟨k, w⟩ := y
    unfold Table.set at h
    split at h
    · exact List.mem_cons.mp h
    · split at h
      · rcases List.mem_cons.mp h with h | h
        · exact .inl h
        · exact .inr (List.mem_cons_of_mem _ h)
      · rcases List.mem_cons.mp h with h | h
        · exact .inr (List.mem_cons.mpr (.inl h))
        · exact (ih h).imp id (List.mem_cons_of_mem _)

theorem Table.wf_nil : Table.wf ([] : Table α) := List.Pairwise.nil

theorem Table.wf_set {t : Table α} (h : Table.wf t) (i : Nat) (v : α) : Table.wf (Table.set t i v) := by
  induction t with
  | nil => simp [Table.set, Table.wf]
  | cons y t ih =>
    obtain ⟨k, w⟩ := y
    have h' := List.pairwise_cons.mp h
    unfold Table.set
    split
    · rename_i hik
      refine List.pairwise_cons.mpr ⟨?_, h⟩
      intro x hx
      rcases List.mem_cons.mp hx with rfl | hx
      · exact hik
      · exact Nat.lt_trans hik (h'.1 x hx)
    · split
      · rename_i hik; subst hik
        exact List.pairwise_cons.mpr ⟨fun x hx => h'.1 x hx, h'.2⟩
      · refine List.pairwise_cons.mpr ⟨?_, ih h'.2⟩
        intro x hx
        rcases Table.mem_set hx with rfl | hx
        · simp only; omega
        · exact h'.1 x hx

theorem Table.wf_filter {t : Table α} (h : Table.wf t) (f : Nat × α → Bool) : Table.wf (t.filter f) :=
  List.Pairwise.filter f h

theorem Table.wf_del {t : Table α} (h : Table.wf t) (i : Nat) : Table.wf (Table.del t i) :=
  Table.wf_filter h _

theorem Table.wf_map {t : Table α} (h : Table.wf t) (f : Nat → α → α) :
    Table.wf (t.map (fun x => (x.1, f x.1 x.2))) := by
  unfold Table.wf
  rw [List.pairwise_map]
  exact h

theorem Table.wf_upd {t : Table α} (h : Table.wf t) (i : Nat) (f : α → α) : Table.wf (Table.upd t i f) := by
  rw [Table.upd_eq_map]; exact Table.wf_map h (fun k v => if k = i then f v else v)

theorem Table.wf_upd? {t : Table α} (h : Table.wf t) (i : Option Nat) (f : α → α) :
    Table.wf (Table.upd? t i f) := by
  cases i with
  | none => exact h
  | some j => exact Table.wf_upd h j f

/-! ### Allocation -/

/-- Lowest-free-first allocation (R21, R105). -/
theorem Table.firstFree?_eq_some {t : Table α} {n i : Nat} :
    Table.firstFree? t n = some i ↔ i < n ∧ Table.get? t i = none ∧ ∀ j, j < i → Table.get? t j ≠ none := by
  unfold Table.firstFree? Table.has
  rw [List.find?_range_eq_some]
  simp only [List.mem_range, Bool.not_eq_true', Option.isSome_eq_false_iff, Option.isNone_iff_eq_none,
    Bool.not_eq_false', Option.isSome_iff_ne_none]
  exact ⟨fun h => ⟨h.2.1, h.1, h.2.2⟩, fun h => ⟨h.2.1, h.1, h.2.2⟩⟩

theorem Table.firstFree?_eq_none {t : Table α} {n : Nat} :
    Table.firstFree? t n = none ↔ ∀ j, j < n → Table.get? t j ≠ none := by
  unfold Table.firstFree? Table.has
  simp

end Sys2Proof.Machine
end

