-- ==== Sys2Proof/Laws/Moves.lean ====
section
/-! SUPPORT. All that the ending of grants, shedding, retirement and Stage C can do to the engine's tables, said once:
each is a chain of five kinds of move. A property that every move keeps is kept by all of them. -/

namespace Sys2Proof.Machine

/-! ### Grants that differ in their links, counts and flags alone -/

/-- The two records agree in owner, subscriber, priority, placement, exclusion set and cost, both are counted or
neither, and a recorded end cause is the same (R20, R22). -/
structure Grant.SameBody (a b : Grant) : Prop where
  owner : b.owner = a.owner
  sub : b.sub = a.sub
  prio : b.prio = a.prio
  dir : b.dir = a.dir
  carrier : b.carrier = a.carrier
  first : b.first = a.first
  k : b.k = a.k
  g : b.g = a.g
  excl : b.excl = a.excl
  cost : b.cost = a.cost
  counted : b.state.counted = a.state.counted
  cause : ∀ c, a.state = .withdrawn c → b.state = .withdrawn c

theorem Grant.SameBody.refl (a : Grant) : Grant.SameBody a a :=
  ⟨rfl, rfl, rfl, rfl, rfl, rfl, rfl, rfl, rfl, rfl, rfl, fun _ h => h⟩

theorem Grant.SameBody.trans {a b c : Grant} (h : Grant.SameBody a b) (h' : Grant.SameBody b c) :
    Grant.SameBody a c :=
  ⟨h'.owner.trans h.owner, h'.sub.trans h.sub, h'.prio.trans h.prio, h'.dir.trans h.dir,
   h'.carrier.trans h.carrier, h'.first.trans h.first, h'.k.trans h.k, h'.g.trans h.g, h'.excl.trans h.excl,
   h'.cost.trans h.cost, h'.counted.trans h.counted, fun c hc => h'.cause c (h.cause c hc)⟩

theorem GrantState.isWithdrawn_eq_not_counted (g : GrantState) : g.isWithdrawn = !g.counted := by cases g <;> rfl

/-! ### dropGrant and leaveSub, field by field -/

theorem Engine.leaveSub_eq (h i : Nat) (e : Engine) :
    Engine.leaveSub h i e = { e with subs := (Engine.leaveSub h i e).subs } := by
  unfold Engine.leaveSub
  split
  · rfl
  · simp only; split <;> rfl

theorem Engine.leaveSub_subs_congr (h i : Nat) {e e' : Engine} (he : e.subs = e'.subs) :
    (Engine.leaveSub h i e).subs = (Engine.leaveSub h i e').subs := by
  unfold Engine.leaveSub
  rw [he]
  split
  · exact he
  · simp only; split <;> simp

/-- The subscriber's record after one of its grants left: gone, or the same but for its grant list (R103, R110). -/
theorem Engine.get?_leaveSub (h i : Nat) (e : Engine) (j : Nat) :
    Table.get? (Engine.leaveSub h i e).subs j =
      if j = h then
        match Table.get? e.subs h with
        | none => none
        | some r => if r.state = .detaching ∧ r.grants.filter (fun x => x != i) = [] then none
          else some { r with grants := r.grants.filter (fun x => x != i) }
      else Table.get? e.subs j := by
  unfold Engine.leaveSub
  by_cases hj : j = h
  · subst hj
    rw [if_pos rfl]
    cases hr : Table.get? e.subs j with
    | none => exact hr
    | some r =>
      simp only
      by_cases hc : r.state = .detaching ∧ r.grants.filter (fun x => x != i) = []
      · rw [if_pos hc, if_pos hc]; exact Table.get?_del_self _ _
      · rw [if_neg hc, if_neg hc]; exact Table.get?_set_self _ _ _
  · rw [if_neg hj]
    cases hr : Table.get? e.subs h with
    | none => rfl
    | some r =>
      simp only
      by_cases hc : r.state = .detaching ∧ r.grants.filter (fun x => x != i) = []
      · rw [if_pos hc]; simp [hj, Table.get?_del]
      · rw [if_neg hc]; exact Table.get?_set_ne _ _ hj

theorem Engine.dropGrant_eq (i : Nat) (g : Grant) (e : Engine) :
    Engine.dropGrant i g e = { e with
      cells := e.cells.filter (fun c => c.2.grant != i)
      changes := e.changes.filter (fun x => x.id != i)
      admission := e.admission.filter (fun j => j != i)
      grants := Table.del e.grants i
      subs := (Engine.leaveSub g.sub i e).subs
      load := if g.state.counted then e.load - g.cost else e.load
      emergencyLoad := if g.state.counted ∧ g.prio = .emergency then e.emergencyLoad - g.cost
        else e.emergencyLoad } := by
  unfold Engine.dropGrant
  simp only
  rw [Engine.leaveSub_eq]
  by_cases hc : g.state.counted = true
  · simp only [hc, if_true, true_and]
    rw [Engine.leaveSub_subs_congr g.sub i (e' := e) (by rfl)]
    rfl
  · simp only [hc]
    rw [Engine.leaveSub_subs_congr g.sub i (e' := e) (by rfl)]
    rfl

/-! ### Moves -/

/-- One move of the engine's tables. -/
inductive Engine.Move : Engine → Engine → Prop
  /-- A grant ends at once or retires. -/
  | drop {e : Engine} {i : Nat} {g : Grant} :
      Table.get? e.grants i = some g → Engine.Move e (e.dropGrant i g)
  /-- A counted grant is withdrawn. -/
  | withdraw {e : Engine} {i : Nat} {g : Grant} (c : EndCause) :
      Table.get? e.grants i = some g → g.state.counted = true →
      Engine.Move e { e.uncount g with
        changes := e.changes.filter (fun x => x.id != i)
        grants := Table.set e.grants i { g with state := .withdrawn c, succ := none } }
  /-- Records change in links, counts, flags, or between the counted states. -/
  | soften {e : Engine} (f : Nat → Grant → Grant) :
      (∀ i g, Table.get? e.grants i = some g → Grant.SameBody g (f i g)) →
      Engine.Move e { e with grants := e.grants.map (fun x => (x.1, f x.1 x.2)) }
  /-- Entries of the Change List change or leave. -/
  | rechange {e : Engine} (cs : List Entry) :
      (∀ x ∈ cs, ∃ y ∈ e.changes, y.id = x.id) → Engine.Move e { e with changes := cs }
  /-- Flush changes. -/
  | reflush {e : Engine} (b : Bool) : Engine.Move e { e with flush := b }

/-- A chain of moves. -/
inductive Engine.Moves : Engine → Engine → Prop
  | refl (e : Engine) : Engine.Moves e e
  | step {e f g : Engine} : Engine.Moves e f → Engine.Move f g → Engine.Moves e g

theorem Engine.Moves.one {e f : Engine} (h : Engine.Move e f) : Engine.Moves e f := .step (.refl e) h

theorem Engine.Moves.trans {e f g : Engine} (h : Engine.Moves e f) (h' : Engine.Moves f g) : Engine.Moves e g := by
  induction h' with
  | refl => exact h
  | step _ hm ih => exact .step ih hm

/-- A property that every move keeps is kept by every chain of moves. -/
theorem Engine.Moves.keeps {P : Engine → Prop} (hP : ∀ e f, Engine.Move e f → P e → P f) {e f : Engine}
    (h : Engine.Moves e f) (he : P e) : P f := by
  induction h with
  | refl => exact he
  | step _ hm ih => exact hP _ _ hm ih

/-! ### The operations are chains of moves -/

theorem Engine.upd?_move (e : Engine) (p : Option Nat) (f : Grant → Grant) (hf : ∀ g, Grant.SameBody g (f g)) :
    Engine.Moves e { e with grants := Table.upd? e.grants p f } := by
  cases p with
  | none => exact .refl e
  | some j =>
    simp only [Table.upd?, Table.upd_eq_map]
    refine .one (.soften (fun k v => if k = j then f v else v) ?_)
    intro i g _
    split
    · exact hf g
    · exact Grant.SameBody.refl g

theorem Engine.clearSucc_moves (p : Option Nat) (e : Engine) : Engine.Moves e (e.clearSucc p) :=
  Engine.upd?_move e p _ (fun _ => ⟨rfl, rfl, rfl, rfl, rfl, rfl, rfl, rfl, rfl, rfl, rfl, fun _ h => h⟩)

theorem Grant.clearPred_same (g : Grant) :
    Grant.SameBody g { g with pred := none, state := if g.state = .chained then .pending else g.state } := by
  refine ⟨rfl, rfl, rfl, rfl, rfl, rfl, rfl, rfl, rfl, rfl, ?_, ?_⟩
  · by_cases h : g.state = .chained <;> simp [h, GrantState.counted]
  · intro c hc; simp [hc]

theorem Engine.clearPred_moves (j : Option Nat) (e : Engine) : Engine.Moves e (e.clearPred j) := by
  cases j with
  | none => exact .refl e
  | some j =>
    have h1 := Engine.upd?_move e (some j)
      (fun g => { g with pred := none, state := if g.state = .chained then .pending else g.state })
      Grant.clearPred_same
    refine .step h1 (.rechange (e.changes.map (fun x => if x.id = j then { x with mark := false } else x)) ?_)
    intro x hx
    obtain ⟨y, hy, rfl⟩ := List.mem_map.mp hx
    refine ⟨y, hy, ?_⟩
    split <;> rfl

theorem Work.breakChain_moves (fuel : Nat) (j : Option Nat) (w : Work) :
    Engine.Moves w.eng (Work.breakChain fuel j w).eng := by
  induction fuel generalizing j w with
  | zero => cases j <;> exact .refl _
  | succ n ih =>
    cases j with
    | none => exact .refl _
    | some i =>
      unfold Work.breakChain
      cases hg : Table.get? w.eng.grants i with
      | none => exact .refl _
      | some g =>
        have h1 : Engine.Moves w.eng (w.eng.dropGrant i g) := .one (.drop hg)
        exact h1.trans (ih g.succ (((w.onEngine (Engine.dropGrant i g)).tally).sayEnded g i .chainBroken))

theorem Work.breakBelow_moves (j : Option Nat) (w : Work) : Engine.Moves w.eng (w.breakBelow j).eng :=
  Work.breakChain_moves _ _ _

theorem Work.endAtOnce_moves {i : Nat} {g : Grant} (c : EndCause) {w : Work}
    (hg : Table.get? w.eng.grants i = some g) : Engine.Moves w.eng (w.endAtOnce i g c).eng :=
  ((Engine.Moves.one (.drop hg)).trans (Engine.clearSucc_moves g.pred _)).trans
    (Work.breakBelow_moves g.succ
      (((w.onEngine (fun e => (e.dropGrant i g).clearSucc g.pred)).tally).sayEnded g i c))

theorem Work.withdraw_moves {i : Nat} {g : Grant} (c : EndCause) {w : Work}
    (hg : Table.get? w.eng.grants i = some g) (hc : g.state.counted = true) :
    Engine.Moves w.eng (w.withdraw i g c).eng :=
  (Engine.Moves.one (.withdraw c hg hc)).trans
    (Work.breakBelow_moves g.succ ((w.onEngine (fun e =>
      { e.uncount g with
        changes := e.changes.filter (fun x => x.id != i)
        grants := Table.set e.grants i { g with state := .withdrawn c, succ := none } })).tally))

theorem Work.endGrant_moves (c : EndCause) (w : Work) (i : Nat) : Engine.Moves w.eng (w.endGrant c i).eng := by
  unfold Work.endGrant
  split
  · exact .refl _
  · rename_i g hg
    split
    · exact Work.endAtOnce_moves c hg
    · exact Work.endAtOnce_moves c hg
    · rename_i hs; exact Work.withdraw_moves c hg (by rw [hs]; rfl)
    · rename_i hs; exact Work.withdraw_moves c hg (by rw [hs]; rfl)
    · exact .refl _

theorem Work.endGrants_moves (c : EndCause) (is : List Nat) (w : Work) :
    Engine.Moves w.eng (w.endGrants c is).eng := by
  induction is generalizing w with
  | nil => exact .refl _
  | cons i is ih => exact (Work.endGrant_moves c w i).trans (ih _)

theorem Work.releaseOffAir_moves {i : Nat} {g : Grant} {w : Work} (hg : Table.get? w.eng.grants i = some g) :
    Engine.Moves w.eng (w.releaseOffAir i g).eng := by
  refine (Engine.Moves.one (.drop hg)).trans ?_
  simp only [Work.releaseOffAir, Work.tally_eng, Work.onEngine_eng]
  split
  · refine (Engine.upd?_move _ g.pred (fun x => { x with succ := g.succ }) ?_).trans
      (Engine.upd?_move _ g.succ (fun x => { x with pred := g.pred }) ?_)
    · intro x; exact ⟨rfl, rfl, rfl, rfl, rfl, rfl, rfl, rfl, rfl, rfl, rfl, fun _ h => h⟩
    · intro x; exact ⟨rfl, rfl, rfl, rfl, rfl, rfl, rfl, rfl, rfl, rfl, rfl, fun _ h => h⟩
  · exact Engine.clearPred_moves _ _

theorem Work.retire_moves (i : Nat) (c : EndCause) (w : Work) : Engine.Moves w.eng (w.retire i c).eng := by
  unfold Work.retire
  split
  · exact .refl _
  · rename_i g hg
    simp only
    have h1 : Engine.Moves w.eng (w.eng.dropGrant i g) := .one (.drop hg)
    cases hn : c.normal <;> cases ha : c.announced
    · exact h1.trans (Work.breakBelow_moves g.succ (w.onEngine (Engine.dropGrant i g)))
    · exact h1.trans (Work.breakBelow_moves g.succ ((w.onEngine (Engine.dropGrant i g)).sayEnded g i c))
    · exact h1.trans (Engine.clearPred_moves g.succ _)
    · exact h1.trans (Engine.clearPred_moves g.succ _)

theorem Work.shedLoop_moves (fuel : Nat) (w : Work) : Engine.Moves w.eng (w.shedLoop fuel).eng := by
  induction fuel generalizing w with
  | zero => exact .refl _
  | succ n ih =>
    unfold Work.shedLoop
    split
    · exact .refl _
    · split
      · exact .refl _
      · exact (Work.endGrant_moves _ _ _).trans (ih _)

theorem Work.shedPass_eng (w : Work) : w.shedPass.eng = if w.eng.load ≤ w.eng.ceiling then w.eng
    else (w.shedLoop (w.eng.grants.length + 1)).eng := by
  unfold Work.shedPass
  split
  · rfl
  · simp only; split <;> split <;> rfl

theorem Work.shedPass_moves (w : Work) : Engine.Moves w.eng w.shedPass.eng := by
  rw [Work.shedPass_eng]
  split
  · exact .refl _
  · exact Work.shedLoop_moves _ _

theorem Work.lateShed_moves (w : Work) : Engine.Moves w.eng w.lateShed.eng := by
  unfold Work.lateShed
  split
  · exact Work.shedPass_moves w
  · exact .refl _

/-! ### What every chain of moves keeps -/

/-- The blocked flags, HOLD, the ceiling and the Tag Map are never touched. -/
theorem Engine.Moves.fixed {e f : Engine} (h : Engine.Moves e f) :
    f.blocked = e.blocked ∧ f.hold = e.hold ∧ f.ceiling = e.ceiling ∧ f.tagMap = e.tagMap := by
  refine Engine.Moves.keeps
    (P := fun x => x.blocked = e.blocked ∧ x.hold = e.hold ∧ x.ceiling = e.ceiling ∧ x.tagMap = e.tagMap)
    ?_ h ⟨rfl, rfl, rfl, rfl⟩
  intro a b hm ha
  cases hm with
  | drop hg => rw [Engine.dropGrant_eq]; exact ha
  | withdraw c hg hc => exact ha
  | soften f hf => exact ha
  | rechange cs hcs => exact ha
  | reflush b => exact ha

/-- No cell becomes held, and a cell that stays held keeps its holder and role (R19). -/
theorem Engine.Moves.cells_sub {e f : Engine} (h : Engine.Moves e f) :
    ∀ key x, Table.get? f.cells key = some x → Table.get? e.cells key = some x ∨ ¬ Table.wf e.cells := by
  intro key x
  by_cases hwf : Table.wf e.cells
  · intro hx
    left
    have := Engine.Moves.keeps (P := fun a => ∀ y ∈ a.cells, y ∈ e.cells) ?_ h (fun _ hy => hy)
    · exact Table.get?_of_mem hwf (this _ (Table.mem_of_get? hx))
    · intro a b hm ha
      cases hm with
      | drop hg =>
        rw [Engine.dropGrant_eq]
        intro y hy
        exact ha y (List.mem_filter.mp hy).1
      | withdraw c hg hc => exact ha
      | soften f hf => exact ha
      | rechange cs hcs => exact ha
      | reflush b => exact ha
  · intro _; exact .inr hwf

/-- No grant record comes into use. -/
theorem Engine.Moves.grants_sub {e f : Engine} (h : Engine.Moves e f) (i : Nat)
    (hi : Table.get? e.grants i = none) : Table.get? f.grants i = none := by
  refine Engine.Moves.keeps (P := fun x => Table.get? x.grants i = none) ?_ h hi
  intro a b hm ha
  cases hm with
  | drop hg => rw [Engine.dropGrant_eq]; simp [Table.get?_del, ha]
  | @withdraw j g c hg hc =>
    have : i ≠ j := fun e => by subst e; rw [ha] at hg; cases hg
    simp [Table.get?_set_ne _ _ this, ha]
  | soften f hf => rw [Table.get?_map, ha]; rfl
  | rechange cs hcs => exact ha
  | reflush b => exact ha

/-- A grant that has ended stays so. -/
theorem Engine.Moves.hasEnded {e f : Engine} (h : Engine.Moves e f) (i : Nat) (hi : e.hasEnded i) : f.hasEnded i := by
  refine Engine.Moves.keeps (P := fun x => x.hasEnded i) ?_ h hi
  intro a b hm ha
  cases hm with
  | @drop j g hg =>
    rw [Engine.dropGrant_eq]
    intro x hx
    simp only [Table.get?_del] at hx
    split at hx
    · cases hx
    · exact ha x hx
  | @withdraw j g c hg hc =>
    intro x hx
    simp only [Table.get?_set] at hx
    split at hx
    · cases hx; rfl
    · exact ha x hx
  | soften f hf =>
    intro x hx
    simp only [Table.get?_map, Option.map_eq_some_iff] at hx
    obtain ⟨y, hy, rfl⟩ := hx
    rw [GrantState.isWithdrawn_eq_not_counted, (hf i y hy).counted, ← GrantState.isWithdrawn_eq_not_counted]
    exact ha y hy
  | rechange cs hcs => exact ha
  | reflush b => exact ha

/-- Every table keeps its canonical form. -/
theorem Engine.Moves.tablesWf {e f : Engine} (h : Engine.Moves e f) (he : e.tablesWf) : f.tablesWf := by
  refine Engine.Moves.keeps ?_ h he
  intro a b hm ha
  obtain ⟨h1, h2, h3, h4, h5⟩ := ha
  cases hm with
  | @drop i g hg =>
    rw [Engine.dropGrant_eq]
    refine ⟨Table.wf_filter h1 _, h2, Table.wf_del h3 _, ?_, h5⟩
    show Table.wf (Engine.leaveSub g.sub i a).subs
    unfold Engine.leaveSub
    split
    · exact h4
    · simp only
      split
      · exact Table.wf_del h4 _
      · exact Table.wf_set h4 _ _
  | withdraw c hg hc => exact ⟨h1, h2, Table.wf_set h3 _ _, h4, h5⟩
  | soften f hf => exact ⟨h1, h2, Table.wf_map h3 _, h4, h5⟩
  | rechange cs hcs => exact ⟨h1, h2, h3, h4, h5⟩
  | reflush b => exact ⟨h1, h2, h3, h4, h5⟩

/-- A subscriber record keeps everything but its grant list, and only a DETACHING record can become FREE. -/
theorem Engine.Moves.subs {e f : Engine} (h : Engine.Moves e f) (j : Nat) :
    (Table.get? e.subs j = none → Table.get? f.subs j = none) ∧
    (∀ r, Table.get? e.subs j = some r →
      (∃ l, Table.get? f.subs j = some { r with grants := l } ∧ ∀ i ∈ l, i ∈ r.grants) ∨
      (r.state = .detaching ∧ Table.get? f.subs j = none)) := by
  refine Engine.Moves.keeps (P := fun x => (Table.get? e.subs j = none → Table.get? x.subs j = none) ∧
    (∀ r, Table.get? e.subs j = some r →
      (∃ l, Table.get? x.subs j = some { r with grants := l } ∧ ∀ i ∈ l, i ∈ r.grants) ∨
      (r.state = .detaching ∧ Table.get? x.subs j = none))) ?_ h
    ⟨id, fun r hr => .inl ⟨r.grants, by simpa using hr, fun _ hi => hi⟩⟩
  intro a b hm ha
  cases hm with
  | @drop i g hg =>
    rw [Engine.dropGrant_eq]
    simp only [Engine.get?_leaveSub]
    by_cases hj : j = g.sub
    · subst hj
      simp only [if_true]
      refine ⟨?_, ?_⟩
      · intro hn; rw [ha.1 hn]
      · intro r hr
        rcases ha.2 r hr with ⟨l, hl, hsub⟩ | ⟨hd, hn⟩
        · rw [hl]
          simp only
          by_cases hc : r.state = .detaching ∧ l.filter (fun x => x != i) = []
          · right; exact ⟨hc.1, if_pos hc⟩
          · left
            refine ⟨l.filter (fun x => x != i), if_neg hc, ?_⟩
            intro x hx; exact hsub x (List.mem_filter.mp hx).1
        · right; rw [hn]; exact ⟨hd, rfl⟩
    · simp only [hj, if_false]; exact ha
  | withdraw c hg hc => exact ha
  | soften f hf => exact ha
  | rechange cs hcs => exact ha
  | reflush b => exact ha

end Sys2Proof.Machine
end

