-- ==== Sys2Proof/Laws/Loads.lean ====
section
/-! SUPPORT. The Load Account: the sum of costs under each update of the Grant Table, and that every chain of moves
keeps the laws of the engine's tables (R23, R66, R87). -/

namespace Sys2Proof.Machine

/-- The sum of the costs of the records that satisfy a test. -/
def costSum (t : Table Grant) (f : Grant → Bool) : Nat := ((t.filter (fun x => f x.2)).map (fun x => x.2.cost)).sum

theorem Engine.sumCosts_eq (e : Engine) (f : Grant → Bool) :
    e.sumCosts f = costSum e.grants (fun g => g.state.counted && f g) := rfl

@[simp] theorem costSum_nil (f : Grant → Bool) : costSum [] f = 0 := rfl

theorem costSum_cons (x : Nat × Grant) (t : Table Grant) (f : Grant → Bool) :
    costSum (x :: t) f = (if f x.2 then x.2.cost else 0) + costSum t f := by
  unfold costSum
  by_cases h : f x.2 = true <;> simp [h]

theorem Table.del_of_not_listed {α : Type} {t : Table α} {i : Nat} (h : ∀ x ∈ t, x.1 ≠ i) : Table.del t i = t := by
  unfold Table.del
  rw [List.filter_eq_self]
  intro x hx; simpa using h x hx

theorem costSum_del {t : Table Grant} (hwf : Table.wf t) {i : Nat} {g : Grant} (hg : Table.get? t i = some g)
    (f : Grant → Bool) : costSum t f = (if f g then g.cost else 0) + costSum (Table.del t i) f := by
  induction t with
  | nil => simp at hg
  | cons x t ih =>
    obtain ⟨k, v⟩ := x
    have hwf' := List.pairwise_cons.mp hwf
    rw [Table.get?_cons] at hg
    by_cases hk : k = i
    · subst hk
      obtain rfl : v = g := by simpa using hg
      have h1 : Table.del ((k, v) :: t) k = Table.del t k := by simp [Table.del]
      have h2 : Table.del t k = t :=
        Table.del_of_not_listed (fun x hx => (Nat.ne_of_lt (hwf'.1 x hx)).symm)
      rw [h1, h2, costSum_cons]
    · have h1 : Table.del ((k, v) :: t) i = (k, v) :: Table.del t i := by simp [Table.del, hk]
      rw [h1, costSum_cons, costSum_cons, ih hwf'.2 (by simpa [hk] using hg)]
      omega

theorem costSum_set {t : Table Grant} (hwf : Table.wf t) (i : Nat) (v : Grant) (f : Grant → Bool) :
    costSum (Table.set t i v) f = (if f v then v.cost else 0) + costSum (Table.del t i) f := by
  induction t with
  | nil => simp [Table.set, Table.del, costSum_cons]
  | cons x t ih =>
    obtain ⟨k, w⟩ := x
    have hwf' := List.pairwise_cons.mp hwf
    unfold Table.set
    by_cases hlt : i < k
    · have h2 : Table.del ((k, w) :: t) i = (k, w) :: t := by
        apply Table.del_of_not_listed
        intro x hx
        rcases List.mem_cons.mp hx with rfl | hx
        · exact (Nat.ne_of_lt hlt).symm
        · exact (Nat.ne_of_lt (Nat.lt_trans hlt (hwf'.1 x hx))).symm
      rw [if_pos hlt, h2, costSum_cons]
    · rw [if_neg hlt]
      by_cases hk : k = i
      · subst hk
        have h1 : Table.del ((k, w) :: t) k = Table.del t k := by simp [Table.del]
        have h2 : Table.del t k = t :=
          Table.del_of_not_listed (fun x hx => (Nat.ne_of_lt (hwf'.1 x hx)).symm)
        rw [if_pos rfl, h1, h2, costSum_cons]
      · have h1 : Table.del ((k, w) :: t) i = (k, w) :: Table.del t i := by simp [Table.del, hk]
        rw [if_neg hk, h1, costSum_cons, costSum_cons, ih hwf'.2]
        omega

theorem costSum_map {t : Table Grant} (f : Grant → Bool) (m : Nat → Grant → Grant)
    (h : ∀ x ∈ t, f (m x.1 x.2) = f x.2 ∧ (m x.1 x.2).cost = x.2.cost) :
    costSum (t.map (fun x => (x.1, m x.1 x.2))) f = costSum t f := by
  induction t with
  | nil => rfl
  | cons x t ih =>
    rw [List.map_cons, costSum_cons, costSum_cons, ih (fun y hy => h y (List.mem_cons_of_mem _ hy))]
    obtain ⟨h1, h2⟩ := h x List.mem_cons_self
    simp only [h1, h2]

theorem costSum_le_of_get? {t : Table Grant} (hwf : Table.wf t) {i : Nat} {g : Grant}
    (hg : Table.get? t i = some g) {f : Grant → Bool} (hf : f g = true) : g.cost ≤ costSum t f := by
  rw [costSum_del hwf hg f, if_pos hf]; omega

/-! ### Every chain of moves keeps the laws of the tables -/

theorem Table.has_iff {α : Type} {t : Table α} {i : Nat} : Table.has t i = true ↔ Table.get? t i ≠ none := by
  unfold Table.has; rw [Option.isSome_iff_ne_none]

theorem Engine.Move.lists {e f : Engine} (h : Engine.Move e f) (he : e.listsLawful) : f.listsLawful := by
  obtain ⟨h1, h2, h3⟩ := he
  cases h with
  | @drop i g hg =>
    rw [Engine.dropGrant_eq]
    refine ⟨?_, ?_, ?_⟩
    · intro j hj
      obtain ⟨hj, hne⟩ := List.mem_filter.mp hj
      have hne : j ≠ i := by simpa using hne
      simpa [Table.has_iff, Table.get?_del, hne] using h1 j hj
    · intro x hx
      obtain ⟨hx, hne⟩ := List.mem_filter.mp hx
      exact List.mem_filter.mpr ⟨h2 x hx, hne⟩
    · intro x hx
      obtain ⟨hx, hne⟩ := List.mem_filter.mp hx
      have hne : x.id ≠ i := by simpa using hne
      simpa [Table.has_iff, Table.get?_del, hne] using h3 x hx
  | @withdraw i g c hg hc =>
    refine ⟨?_, ?_, ?_⟩
    · intro j hj
      have := h1 j hj
      rw [Table.has_iff] at this ⊢
      simp only [Table.get?_set]
      split <;> simp_all
    · intro x hx
      rcases Table.mem_set hx with rfl | hx
      · exact h2 (i, g) (Table.mem_of_get? hg)
      · exact h2 x hx
    · intro x hx
      have := h3 x (List.mem_filter.mp hx).1
      rw [Table.has_iff] at this ⊢
      simp only [Table.get?_set]
      split <;> simp_all
  | soften m hm =>
    refine ⟨?_, ?_, ?_⟩
    · intro j hj
      have := h1 j hj
      rw [Table.has_iff] at this ⊢
      simp only [Table.get?_map]
      simpa using this
    · intro x hx
      obtain ⟨y, hy, rfl⟩ := List.mem_map.mp hx
      exact h2 y hy
    · intro x hx
      have := h3 x hx
      rw [Table.has_iff] at this ⊢
      simp only [Table.get?_map]
      simpa using this
  | rechange cs hcs =>
    refine ⟨h1, h2, ?_⟩
    intro x hx
    obtain ⟨y, hy, hyx⟩ := hcs x hx
    rw [← hyx]; exact h3 y hy
  | reflush b => exact ⟨h1, h2, h3⟩

theorem Engine.Move.load {e f : Engine} (h : Engine.Move e f) (hwf : e.tablesWf) (he : e.loadLawful) :
    f.loadLawful := by
  obtain ⟨h1, h2⟩ := he
  rw [Engine.sumCosts_eq] at h1 h2
  have hg3 := hwf.2.2.1
  cases h with
  | @drop i g hg =>
    rw [Engine.dropGrant_eq]
    rw [costSum_del hg3 hg] at h1 h2
    refine ⟨?_, ?_⟩
    · rw [Engine.sumCosts_eq]
      simp only
      cases hc : g.state.counted <;> simp [hc] at h1 ⊢ <;> omega
    · rw [Engine.sumCosts_eq]
      simp only
      cases hc : g.state.counted <;> by_cases hp : g.prio = .emergency <;> simp [hc, hp] at h2 ⊢ <;> omega
  | @withdraw i g c hg hc =>
    have hw : (GrantState.withdrawn c).counted = false := rfl
    rw [costSum_del hg3 hg] at h1 h2
    refine ⟨?_, ?_⟩
    · rw [Engine.sumCosts_eq]
      simp only [costSum_set hg3]
      simp [Engine.uncount, hw, hc] at h1 ⊢
      omega
    · rw [Engine.sumCosts_eq]
      simp only [costSum_set hg3]
      by_cases hp : g.prio = .emergency <;> simp [Engine.uncount, hw, hc, hp] at h2 ⊢ <;> omega
  | soften m hm =>
    have hsame : ∀ x ∈ e.grants, Grant.SameBody x.2 (m x.1 x.2) :=
      fun x hx => hm x.1 x.2 (Table.get?_of_mem hg3 hx)
    refine ⟨?_, ?_⟩
    · rw [Engine.sumCosts_eq]
      simp only
      rw [costSum_map]
      · exact h1
      · intro x hx; exact ⟨by rw [(hsame x hx).counted], (hsame x hx).cost⟩
    · rw [Engine.sumCosts_eq]
      simp only
      rw [costSum_map]
      · exact h2
      · intro x hx; exact ⟨by rw [(hsame x hx).counted, (hsame x hx).prio], (hsame x hx).cost⟩
  | rechange cs hcs => exact ⟨h1, h2⟩
  | reflush b => exact ⟨h1, h2⟩

/-- Every chain of moves keeps the three laws. -/
theorem Engine.Moves.lawful {e f : Engine} (h : Engine.Moves e f) (he : e.lawful) : f.lawful := by
  refine Engine.Moves.keeps ?_ h he
  intro a b hm ha
  exact ⟨(Engine.Moves.one hm).tablesWf ha.1, hm.lists ha.2.1, hm.load ha.1 ha.2.2⟩

end Sys2Proof.Machine
end

