-- ==== Sys2Proof/Laws/Requests.lean ====
section
/-! SUPPORT. The frame of every request's execution (R152, R162, R164): what it answers when the request is served, and
that it changes nothing when it is not. -/

namespace Sys2Proof.Machine

/-! ### The placing of a response -/

@[simp] theorem State.placeResponse_pending (s : State) (p : PortId) (tag : Byte) (rep : Reply) :
    (s.placeResponse p tag rep).pending = s.pending := by unfold State.placeResponse; split <;> rfl

@[simp] theorem State.placeResponse_op (s : State) (p : PortId) (tag : Byte) (rep : Reply) :
    (s.placeResponse p tag rep).op = s.op := by unfold State.placeResponse; split <;> rfl

@[simp] theorem State.placeResponse_items (s : State) (p : PortId) (tag : Byte) (rep : Reply) :
    (s.placeResponse p tag rep).items = s.items := by unfold State.placeResponse; split <;> rfl

@[simp] theorem State.placeResponse_events (s : State) (p : PortId) (tag : Byte) (rep : Reply) :
    (s.placeResponse p tag rep).events = s.events := by unfold State.placeResponse; split <;> rfl

@[simp] theorem State.placeResponse_timer (s : State) (p : PortId) (tag : Byte) (rep : Reply) :
    (s.placeResponse p tag rep).timer = s.timer := by unfold State.placeResponse; split <;> rfl

@[simp] theorem State.placeResponse_keying (s : State) (p : PortId) (tag : Byte) (rep : Reply) :
    (s.placeResponse p tag rep).keying = s.keying := by unfold State.placeResponse; split <;> rfl

@[simp] theorem State.placeResponse_eng (s : State) (p : PortId) (tag : Byte) (rep : Reply) :
    (s.placeResponse p tag rep).eng = s.eng := by unfold State.placeResponse; split <;> rfl

@[simp] theorem State.placeResponse_classes (s : State) (p : PortId) (tag : Byte) (rep : Reply) :
    (s.placeResponse p tag rep).classes = s.classes := by unfold State.placeResponse; split <;> rfl

@[simp] theorem State.placeResponse_templates (s : State) (p : PortId) (tag : Byte) (rep : Reply) :
    (s.placeResponse p tag rep).templates = s.templates := by unfold State.placeResponse; split <;> rfl

@[simp] theorem State.placeResponse_freeIndex (s : State) (p : PortId) (tag : Byte) (rep : Reply) :
    (s.placeResponse p tag rep).freeIndex = s.freeIndex := by unfold State.placeResponse; split <;> rfl

@[simp] theorem State.placeResponse_arb (s : State) (p : PortId) (tag : Byte) (rep : Reply) :
    (s.placeResponse p tag rep).arb = { s.arb with executing := none, discard := false } := by
  unfold State.placeResponse; split <;> rfl

theorem State.placeResponse_port_ne (s : State) {p q : PortId} (tag : Byte) (rep : Reply) (h : q ≠ p) :
    (s.placeResponse p tag rep).port q = s.port q := by
  unfold State.placeResponse
  split
  · rfl
  · exact Ports.get_set_ne _ _ h

/-- An unmarked response is placed in its port's Outbound Queue (R152). -/
theorem State.placeResponse_port_self (s : State) (p : PortId) (tag : Byte) (rep : Reply)
    (h : s.arb.discard = false) :
    (s.placeResponse p tag rep).port p = { s.port p with
      oq := (s.port p).oq ++ [.response tag rep.cause rep.payload], owed := (s.port p).owed - 1 } := by
  unfold State.placeResponse
  simp only [h]
  exact Ports.get_set_self _ _ _

/-! ### The arbiter hands an item over only when the engine is free -/

theorem State.executing_of_nextItem {s : State} {i : Item} (h : s.nextItem = some i) : s.arb.executing = none := by
  unfold State.nextItem at h
  cases he : s.arb.executing with
  | none => rfl
  | some p => simp [he] at h

/-! ### Kinds -/

theorem Kind.mem_all (k : Kind) : k ∈ Kind.all := by cases k <;> decide

@[simp] theorem Kind.ofCode?_code (k : Kind) : Kind.ofCode? k.code = some k := by cases k <;> decide

theorem Kind.code_inj {a b : Kind} (h : a.code = b.code) : a = b := by
  have := Kind.ofCode?_code a
  rw [h, Kind.ofCode?_code] at this
  exact (Option.some.inj this).symm

theorem Kind.ofCode?_eq_none {c : Byte} : Kind.ofCode? c = none ↔ ∀ k : Kind, k.code ≠ c := by
  unfold Kind.ofCode?
  rw [List.find?_eq_none]
  constructor
  · intro h k he
    exact h k (Kind.mem_all k) (by simp [he])
  · intro h k _ he
    exact h k (by simpa using he)

/-! ### serveIf -/

/-- With nothing reaching the timer, the request acts in the state it was handed over in. -/
@[simp] theorem State.begun_nil (s : State) (p : PortId) (rest : List Request) :
    s.begun ⟨p, []⟩ rest = s.handOver p rest := rfl

/-- A request that the arbiter hands over, of a kind the command executes. -/
theorem serveIf_of_served {test : Byte → Bool} {body : PortId → Request → State → State × Reply} {x : Execution}
    {s : State} {r : Request} {rest : List Request} (hn : s.nextItem = some (.request x.port))
    (hq : (s.port x.port).rq = r :: rest) (ht : test r.kind = true) :
    serveIf test body x s = .next ((body x.port r (s.begun x rest)).1.placeResponse x.port r.tag
      (body x.port r (s.begun x rest)).2) := by
  have : s.taken? x.port test = some (r, rest) := by simp [State.taken?, hn, hq, ht]
  simp [serveIf, this]

/-- A command that the arbiter would not hand over changes nothing (log 2). -/
theorem serveIf_of_not_next {test : Byte → Bool} {body : PortId → Request → State → State × Reply} {x : Execution}
    {s : State} (hn : s.nextItem ≠ some (.request x.port)) : serveIf test body x s = .next s := by
  have : s.taken? x.port test = none := by simp [State.taken?, hn]
  simp [serveIf, this]

/-- A command of another kind than the request at the head changes nothing (log 2). -/
theorem serveIf_of_other_kind {test : Byte → Bool} {body : PortId → Request → State → State × Reply} {x : Execution}
    {s : State} {r : Request} {rest : List Request} (hq : (s.port x.port).rq = r :: rest)
    (ht : test r.kind = false) : serveIf test body x s = .next s := by
  have : s.taken? x.port test = none := by
    unfold State.taken?
    split
    · simp [hq, ht]
    · rfl
  simp [serveIf, this]

/-- All that a request command can do. -/
theorem serveIf_cases (test : Byte → Bool) (body : PortId → Request → State → State × Reply) (x : Execution)
    (s : State) :
    serveIf test body x s = .next s ∨
    ∃ r rest, s.nextItem = some (.request x.port) ∧ (s.port x.port).rq = r :: rest ∧ test r.kind = true ∧
      serveIf test body x s = .next ((body x.port r (s.begun x rest)).1.placeResponse x.port r.tag
        (body x.port r (s.begun x rest)).2) := by
  by_cases hn : s.nextItem = some (.request x.port)
  · cases hq : (s.port x.port).rq with
    | nil =>
      left
      have : s.taken? x.port test = none := by simp [State.taken?, hn, hq]
      simp [serveIf, this]
    | cons r rest =>
      by_cases ht : test r.kind = true
      · exact .inr ⟨r, rest, hn, rfl, ht, serveIf_of_served hn hq ht⟩
      · exact .inl (serveIf_of_other_kind hq (by simpa using ht))
  · exact .inl (serveIf_of_not_next hn)

/-! ### The served request -/

theorem serveSector_of_serving {α : Type} {k : Kind} {parse : List Byte → Option α}
    {body : Sector → α → State → State × Reply} {p : PortId} {s : State} {r : Request} {rest : List Request}
    (h : s.serving p k r rest) :
    serveSector k parse body ⟨p, []⟩ s = .next ((sectorChecks k parse body p r (s.handOver p rest)).1.placeResponse p r.tag
      (sectorChecks k parse body p r (s.handOver p rest)).2) :=
  serveIf_of_served (x := ⟨_, []⟩) h.1 h.2.1 (by simp [h.2.2.1])

theorem serveSite_of_serving {α : Type} {k : Kind} {parse : List Byte → Option α}
    {body : α → State → State × Reply} {p : PortId} {s : State} {r : Request} {rest : List Request}
    (h : s.serving p k r rest) :
    serveSite k parse body ⟨p, []⟩ s = .next ((siteChecks parse body p r (s.handOver p rest)).1.placeResponse p r.tag
      (siteChecks parse body p r (s.handOver p rest)).2) :=
  serveIf_of_served (x := ⟨_, []⟩) h.1 h.2.1 (by simp [h.2.2.1])

theorem serveAny_of_serving {α : Type} {k : Kind} {parse : PortId → List Byte → Option α}
    {body : PortId → α → State → State × Reply} {p : PortId} {s : State} {r : Request} {rest : List Request}
    (h : s.serving p k r rest) :
    serveAny k parse body ⟨p, []⟩ s = .next ((anyChecks parse body p r (s.handOver p rest)).1.placeResponse p r.tag
      (anyChecks parse body p r (s.handOver p rest)).2) :=
  serveIf_of_served (x := ⟨_, []⟩) h.1 h.2.1 (by simp [h.2.2.1])

/-- A sector request whose parameters fit and whose sector check 4 of R162 lets pass: its body acts. -/
theorem serveSector_body {α : Type} {k : Kind} {parse : List Byte → Option α}
    {body : Sector → α → State → State × Reply} {n : Sector} {s : State} {r : Request} {rest : List Request} {a : α}
    (h : s.serving (.sector n) k r rest) (ha : parse r.params = some a)
    (hc : k.closedWhenDisabled = false ∨ s.items.sectorsEnabled.getLsbD n.val = true) :
    serveSector k parse body ⟨.sector n, []⟩ s =
      .next ((body n a (s.handOver (.sector n) rest)).1.placeResponse (.sector n) r.tag
        (body n a (s.handOver (.sector n) rest)).2) := by
  have : sectorChecks k parse body (.sector n) r (s.handOver (.sector n) rest) =
      body n a (s.handOver (.sector n) rest) := by
    simp only [sectorChecks, ha]
    have hb : (k.closedWhenDisabled && (s.handOver (.sector n) rest).sectorDisabled n) = false := by
      rcases hc with hc | hc
      · simp [hc]
      · simp [State.sectorDisabled]
        intro _
        simpa using hc
    simp [hb]
  rw [serveSector_of_serving h, this]

theorem serveSite_body {α : Type} {k : Kind} {parse : List Byte → Option α}
    {body : α → State → State × Reply} {s : State} {r : Request} {rest : List Request} {a : α}
    (h : s.serving .site k r rest) (ha : parse r.params = some a) :
    serveSite k parse body ⟨.site, []⟩ s = .next ((body a (s.handOver .site rest)).1.placeResponse .site r.tag
      (body a (s.handOver .site rest)).2) := by
  rw [serveSite_of_serving h]; simp [siteChecks, ha]

theorem serveAny_body {α : Type} {k : Kind} {parse : PortId → List Byte → Option α}
    {body : PortId → α → State → State × Reply} {p : PortId} {s : State} {r : Request} {rest : List Request} {a : α}
    (h : s.serving p k r rest) (ha : parse p r.params = some a) :
    serveAny k parse body ⟨p, []⟩ s = .next ((body p a (s.handOver p rest)).1.placeResponse p r.tag
      (body p a (s.handOver p rest)).2) := by
  rw [serveAny_of_serving h]; simp [anyChecks, ha]

/-! ### What an answer leaves -/

/-- A body that touches neither ports nor arbiter: the request is answered and no port sees anything else. -/
theorem answered_of_quiet {s u : State} {p : PortId} {k : Kind} {r : Request} {rest : List Request} (rep : Reply)
    (h : s.serving p k r rest) (hp : u.ports = (s.handOver p rest).ports)
    (ha : u.arb = (s.handOver p rest).arb) : Answered s (u.placeResponse p r.tag rep) p r rest rep := by
  have hd : u.arb.discard = false := by rw [ha]; exact h.2.2.2
  have hport : ∀ q, u.port q = (s.handOver p rest).port q := fun q => by simp [State.port_eq, hp]
  refine ⟨?_, ?_, ?_⟩
  · rw [State.placeResponse_port_self _ _ _ _ hd, hport]; simp
  · intro q hq
    rw [State.placeResponse_port_ne _ _ _ hq, hport, State.handOver_port_ne _ _ hq]
  · have := h.2.2.2
    rw [State.placeResponse_arb, ha]
    simp [this]

/-- A body that places only notices. -/
theorem answered_of_noticed {s u : State} {p : PortId} {k : Kind} {r : Request} {rest : List Request} (rep : Reply)
    (h : s.serving p k r rest) (hp : ∀ n, PortNoticed ((s.handOver p rest).port (.sector n)) (u.port (.sector n)))
    (hs : u.port .site = (s.handOver p rest).port .site)
    (ha : u.arb = (s.handOver p rest).arb) : AnsweredWithNotices s (u.placeResponse p r.tag rep) p r rest rep := by
  have hd : u.arb.discard = false := by rw [ha]; exact h.2.2.2
  have hall : ∀ q, PortNoticed ((s.handOver p rest).port q) (u.port q) := by
    intro q
    match q with
    | .site => rw [hs]; exact PortNoticed.refl _
    | .sector n => exact hp n
  refine ⟨?_, ?_, ?_, ?_⟩
  · rw [State.placeResponse_port_self _ _ _ _ hd]
    obtain ⟨⟨h1, h2, h3, h4, h5, h6, h7, h8⟩, _⟩ := hall p
    rw [State.handOver_port_self] at h1 h2 h3 h4 h5 h6 h7 h8
    refine ⟨h1, ?_, h3, h4, h5, h6, h7, h8⟩
    simp only at h2 ⊢
    rw [h2]
  · rw [State.placeResponse_port_self _ _ _ _ hd]
    obtain ⟨_, ns, hns⟩ := hall p
    rw [State.handOver_port_self] at hns
    exact ⟨ns, by simp [hns]⟩
  · intro q hq
    rw [State.placeResponse_port_ne _ _ _ hq]
    have := hall q
    rwa [State.handOver_port_ne _ _ hq] at this
  · have := h.2.2.2
    rw [State.placeResponse_arb, ha]
    simp [this]

/-- As `answered_of_noticed`, for the state after the engine's work. -/
theorem answered_of_absorb {s u : State} {p : PortId} {k : Kind} {r : Request} {rest : List Request} (rep : Reply)
    (w : Work) (h : s.serving p k r rest) (hp : u.ports = (s.handOver p rest).ports)
    (ha : u.arb = (s.handOver p rest).arb) :
    AnsweredWithNotices s ((u.absorb w).placeResponse p r.tag rep) p r rest rep := by
  have hport : ∀ q, u.port q = (s.handOver p rest).port q := fun q => by simp [State.port_eq, hp]
  apply answered_of_noticed rep h
  · intro n
    rw [← hport]
    exact State.absorb_noticed u w n
  · rw [State.absorb_site, hport]
  · rw [State.absorb_arb, ha]

end Sys2Proof.Machine
end

