-- ==== Sys2Proof/WellFormed.lean ====
section
/-! DEFINITION. Which commands are well formed. -/

namespace Sys2Proof

/-- A slot start names a slot of 1 to 15: slot 0 starts at the boundary itself, not by this event (R143, R145).
Every other command is well formed with any operand: what a frame or a pulse time means is decided by the part. -/
def Instr.wellFormed : Instr → Bool
  | .slotStart n => decide (1 ≤ n ∧ n ≤ 15)
  | .deviceReset | .transactionBegin _ | .transactionEnd _ _ | .freeRunPeriodExpiry | .lockingPeriodExpiry
  | .lockedSyncTimeout | .holdoverPeriodExpiry | .fsyncPulse _ | .fmarkPulseEnd | .boundaryProcessing
  | .sectorDetachItem _ | .siteAbsenceItem | .unknownKindRequest _ | .attach _ | .detach _ | .linkReport _
  | .grantRequest _ | .renew _ | .release _ | .setNotices _ | .sectorReboot _ | .grantQuery _
  | .subscriberQuery _ | .scheduleQuery _ | .start _ _ | .standby _ | .softReset _ | .configure _
  | .readConfig _ | .blockTiles _ | .setCeiling _ | .hold _ | .unhold _ | .forceRelease _ | .sectorReset _
  | .templateWrite _ | .templateRead _ | .classWrite _ | .statusRead _ | .portStatus _ | .loadQuery _ => true

end Sys2Proof
end

