-- ==== Sys2Proof/Tests/Slice0.lean ====
section
/-! SUPPORT. Tests: the well-formedness check, one or two small tests a command (each one step, most of them the
spec's own worked values), and for every statement of Certificates/Slice0 with hypotheses a concrete state and operands
that meet them. -/

namespace Sys2Proof.Tests
open Sys2Proof.Machine

/- One theorem at a time: each waits for the kernel, and too many waiting at once would ask for too many threads. -/
set_option Elab.async false

/-! ### Small states -/

/-- The outcome is a next state that passes the test. -/
def shows (o : Out) (f : State → Bool) : Bool :=
  match o with
  | .next t => f t
  | .fault _ => false
  | .refused _ => false

/-- A port in use. -/
def livePort : Port := { Port.reset with health := .present }

/-- An ATTACHED subscriber with an empty list. -/
def member (tag : Tag) (home : Sector) (range : RangeClass) : Subscriber := ⟨.attached, tag, home, range, 15, 0, []⟩

/-- The site of 2.6: classes 2 and 5 enabled, three subscribers. Class 7 names an EMERGENCY template besides. -/
def site : State :=
  { State.reset with
    op := .running
    timer := { Timer.reset with state := .freeRun, lastBoundary := 70000, frameCounter := 41, slot := some 3 }
    classes := ((resetClasses.set 2 ⟨2, true⟩).set 5 ⟨5, true⟩).set 7 ⟨7, true⟩
    templates := (((Vector.replicate 24 Template.reset).set 2
      ⟨.oneShot, 20, .nearest, 4, .standard, .either, 0xFF#8, false, false⟩).set 5
      ⟨.persistent, 50, .ceil, 3, .priority, .dl, 0x03#8, false, false⟩).set 7
      ⟨.oneShot, 10, .nearest, 8, .emergency, .either, 0x03#8, false, false⟩
    eng := { Engine.reset with
      subs := [(0, member 0xA0 1 2), (1, member 0xA1 1 6), (2, member 0xA2 0 1)]
      tagMap := [(0xA0, 0), (0xA1, 1), (0xA2, 2)] }
    ports := ⟨livePort, livePort, livePort, livePort, livePort⟩ }

/-- A request at the head of a port's queue. -/
def ask (s : State) (p : PortId) (kind : Byte) (params : List Byte) : State :=
  s.setPort p { s.port p with rq := [⟨kind, 0x5A, params⟩], owed := 1 }

/-- The request that `ask` makes. -/
def asked (kind : Byte) (params : List Byte) : Request := ⟨kind, 0x5A, params⟩

/-- The newest entry of a port's Outbound Queue is this response. -/
def answered (t : State) (p : PortId) (rep : Reply) : Bool :=
  (t.port p).oq.getLast? == some (.response 0x5A rep.cause rep.payload) && (t.port p).owed == 0

/-- A ONE_SHOT STANDARD downlink grant of 20 frames. -/
def plain (st : GrantState) (owner : Sector) (sub : Nat) (c : Carrier) (first : Nat) (x : SectorSet) : Grant where
  state := st
  owner := owner
  sub := sub
  cls := 2
  prio := .standard
  mode := .oneShot
  roundLength := 20
  renewRequired := false
  roundNotice := false
  dir := .dl
  carrier := c
  first := first
  k := 1
  g := 0
  excl := x
  cost := 4
  remaining := 20
  renewed := false
  stale := false
  pred := none
  succ := none
  admitted := 40

/-- The grant with its cells, its places in the lists and its cost. -/
def put (i : Nat) (g : Grant) (e : Engine) : Engine :=
  { e with
    cells := (footprint g.first (g.k + g.g) g.excl).foldl
      (fun t x => Table.set t (cellKey g.dir g.carrier x.1 x.2) ⟨i, g.roleAt x.1⟩) e.cells
    grants := Table.set e.grants i g
    admission := e.admission ++ [i]
    subs := Table.upd e.subs g.sub (fun y => { y with grants := y.grants ++ [i] })
    load := if g.state.counted then e.load + g.cost else e.load
    emergencyLoad := if g.state.counted ∧ g.prio = .emergency then e.emergencyLoad + g.cost else e.emergencyLoad }

/-- The ACTIVE PERSISTENT grant of subscriber 0. -/
def onAir : Grant :=
  { plain .active 1 0 0 1 0b0010#4 with
    cls := 5, prio := .priority, mode := .persistent, roundLength := 50, remaining := 50, k := 3, cost := 24 }

/-- The PENDING uplink grant of subscriber 1, with guards. -/
def waiting : Grant :=
  { plain .pending 1 1 0 1 0b0111#4 with dir := .ul, k := 2, g := 2, cost := 0 }

/-- The site with five grants: 0 on air, 1 waiting, 2 on air with successor 3, 4 withdrawn. -/
def busy : State :=
  { site with
    eng := { (put 4 (plain (.withdrawn .forced) 0 2 1 1 0b0001#4)
      (put 3 { plain .chained 0 2 0 2 0b0001#4 with pred := some 2 }
      (put 2 { plain .active 0 2 0 1 0b0001#4 with succ := some 3 }
      (put 1 waiting (put 0 onAir site.eng))))) with
        changes := [⟨1, .activate, 2, false⟩, ⟨3, .activate, 2, true⟩] } }

/-- A boundary waits for the engine. -/
def due (s : State) : State := { s with arb := { s.arb with pendingBoundaries := 1 } }

/-- An internal item waits for the engine. -/
def owes (s : State) (i : InternalItem) : State := { s with arb := { s.arb with internal := [i] } }

/-- The timer in a state, with a missed count. -/
def timed (s : State) (st : TimerState) (m : Nat) : State :=
  { s with timer := { s.timer with state := st, missed := m } }

/-- A transaction is open on S0, with the IDLE frame. -/
def open0 (s : State) : State :=
  s.setPort (.sector 0)
    { s.port (.sector 0) with txn := some ⟨composeFrame (.sector 0) (s.port (.sector 0)) s.op, false, false, false⟩ }

/-! ### Well-formedness -/

theorem test_slot_zero_is_ill_formed : Instr.wellFormed (.slotStart 0) = false := by decide
theorem test_slot_sixteen_is_ill_formed : Instr.wellFormed (.slotStart 16) = false := by decide
theorem test_slots_in_range_are_well_formed :
    Instr.wellFormed (.slotStart 1) = true ∧ Instr.wellFormed (.slotStart 15) = true := by decide
theorem test_no_word_spells_a_command : decodeTableWord 8 0x10 = none := rfl

/-! ### Operations -/

/-- The check value of this CRC over the digits 1 to 9. -/
theorem test_crc_check_value :
    crcOf [0x31, 0x32, 0x33, 0x34, 0x35, 0x36, 0x37, 0x38, 0x39] = 0x29B1#16 := by decide +kernel

/-- The worked rows of 7.4. -/
theorem test_normalisation_rows :
    normalise 1 48 .nearest = 1 ∧ normalise 23 48 .nearest = 1 ∧ normalise 215 48 .nearest = 4 ∧
    normalise 215 48 .ceil = 5 ∧ normalise 216 48 .nearest = 5 ∧ normalise 100 40 .ceil = 3 ∧
    normalise 60 24 .nearest = 3 ∧ normalise 96 12 .ceil = 8 ∧ normalise 100 12 .ceil = 9 := by decide

theorem test_busy_load : busy.eng.load = 32 ∧ busy.eng.cells.length = 18 ∧
    busy.eng.admission = [0, 1, 2, 3, 4] := by decide +kernel

/-- The engine of the worked search of 3.4. -/
def crowded : Engine :=
  { put 34 { plain .active 0 2 1 13 0b0001#4 with k := 3, cost := 12 }
    (put 33 { plain .active 1 1 1 7 0b0111#4 with k := 6, cost := 96, prio := .priority }
    (put 32 { plain .active 0 2 1 1 0b0001#4 with k := 6, cost := 24, prio := .emergency }
    (put 31 (plain .active 0 2 0 2 0b0001#4)
    (put 30 { plain .active 0 2 0 1 0b0001#4 with prio := .background } site.eng)))) with
    blocked := (slotsOf 3 13).foldl (fun t slot => Table.set t (tileKey .dl 0 slot) ()) [] }

/-- The request of that search. -/
def urgent : Query := ⟨.dl, 2, 0, 0b0001#4, 0x03#8, .emergency, [], false⟩

theorem test_search_worked : urgent.search crowded = some (⟨1, 7⟩, [33]) ∧ crowded.load = 140 ∧
    crowded.emergencyLoad = 24 := by decide +kernel

/-! ### Commands -/

theorem test_deviceReset : shows (exec .deviceReset busy) (fun t => t == State.reset) = true := by decide +kernel

theorem test_transactionBegin_idle :
    shows (exec (.transactionBegin (.sector 0)) site) (fun t =>
      (t.port (.sector 0)).txn == some ⟨withCrc [0x01, 0x00, 0x04, 0x00, 0x00, 0x00], false, false, false⟩ &&
      t.sdo (.sector 0) 0 == 0x01 && t.sdo (.sector 0) 8 == 0xFF) = true := by decide +kernel

theorem test_transactionEnd_takes_a_request :
    shows (exec (.transactionEnd (.sector 0) (withCrc [0x14, 0x5A, 0x01, 0x03] ++ [0xFF, 0xFF])) (open0 site))
      (fun t => (t.port (.sector 0)).rq == [asked 0x14 [0x03]] && (t.port (.sector 0)).owed == 1 &&
        (t.port (.sector 0)).lastIntake == .taken && (t.port (.sector 0)).txn == none) = true := by decide +kernel

theorem test_transactionEnd_bad_crc :
    shows (exec (.transactionEnd (.sector 0) [0x14, 0x5A, 0x01, 0x03, 0x00, 0x00]) (open0 site))
      (fun t => (t.port (.sector 0)).rq == [] && (t.port (.sector 0)).badRun == 1 &&
        (t.port (.sector 0)).lastIntake == .crcBad) = true := by decide +kernel

theorem test_freeRunPeriodExpiry :
    shows (exec .freeRunPeriodExpiry busy) (fun t =>
      t.timer.frameCounter == 42 && t.timer.lastBoundary == 80000 && t.timer.slot == some 0 && t.timer.fmark &&
      t.arb.pendingBoundaries == 1 && (t.port (.sector 3)).keepalive == 1 && t.eng == busy.eng) = true := by
  decide +kernel

theorem test_lockingPeriodExpiry :
    shows (exec .lockingPeriodExpiry (timed site .locking 31)) (fun t =>
      t.timer.missed == 32 && t.timer.lostMark && Event.isIn .syncLost t.events &&
      t.timer.frameCounter == 41) = true := by decide +kernel

theorem test_lockedSyncTimeout :
    shows (exec .lockedSyncTimeout (timed site .locked 0)) (fun t =>
      t.timer.state == .holdover && t.timer.missed == 1 && t.timer.lastBoundary == 80050 && t.events == 0) = true := by
  decide +kernel

theorem test_holdoverPeriodExpiry :
    shows (exec .holdoverPeriodExpiry (timed site .holdover 31)) (fun t =>
      t.timer.missed == 32 && t.timer.lastBoundary == 80000 && Event.isIn .syncLost t.events) = true := by
  decide +kernel

theorem test_fsyncPulse_truncates :
    shows (exec (.fsyncPulse 6000) (timed site .locked 0)) (fun t =>
      t.timer.lastBoundary == 76000 && Event.isIn .frameTruncated t.events) = true := by decide +kernel

theorem test_fsyncPulse_relocks :
    shows (exec (.fsyncPulse 50) (timed site .holdover 3)) (fun t =>
      t.timer.state == .locked && t.timer.missed == 0 && t.timer.lastBoundary == 70000) = true := by decide +kernel

theorem test_fmarkPulseEnd :
    shows (exec .fmarkPulseEnd { site with timer := { site.timer with fmark := true } }) (fun t => t == site) =
      true := by decide +kernel

theorem test_slotStart :
    shows (exec (.slotStart 4) { site with keying := ⟨emptyAirMap.set 2 0b10000#16, 0⟩ }) (fun t =>
      t.timer.slot == some 4 && t.keying.keys == 0b100#8) = true := by decide +kernel

/-- Stage A, B and D: grant 0 loses a frame, grant 4 retires, and the Air Map holds grants 0 and 2. -/
theorem test_boundaryProcessing :
    shows (exec .boundaryProcessing (due busy)) (fun t =>
      (Table.get? t.eng.grants 0).map (·.remaining) == some 49 && Table.get? t.eng.grants 4 == none &&
      t.keying.airMap[0] == 0b1110#16 && t.keying.airMap[1] == 0#16 && t.arb.pendingBoundaries == 0 &&
      t.eng.changes == [⟨1, .activate, 1, false⟩, ⟨3, .activate, 1, true⟩]) = true := by decide +kernel

theorem test_sectorDetachItem :
    shows (exec (.sectorDetachItem 1) (owes busy (.sectorDetach 1))) (fun t =>
      (Table.get? t.eng.subs 0).map (·.state) == some .detaching && Table.get? t.eng.subs 1 == none &&
      (Table.get? t.eng.grants 0).map (·.state) == some (.withdrawn .sectorLost) && t.eng.load == 8 &&
      t.eng.tagMap == [(0xA2, 2)] && t.arb.internal == [] && t.ports == busy.ports) = true := by decide +kernel

theorem test_siteAbsenceItem :
    shows (exec .siteAbsenceItem (owes { busy with eng := { busy.eng with hold := true } } .siteAbsence)) (fun t =>
      !t.eng.hold && t.eng.flush && t.arb.internal == []) = true := by decide +kernel

theorem test_unknownKindRequest :
    shows (exec (.unknownKindRequest ⟨.sector 0, []⟩) (ask site (.sector 0) 0x7E [1, 2, 3])) (fun t =>
      answered t (.sector 0) (.no .unknownKind)) = true := by decide +kernel

theorem test_attach_fresh :
    shows (exec (.attach ⟨.sector 2, []⟩) (ask busy (.sector 2) 0x10 [0, 0, 0, 0xB0, 7])) (fun t =>
      answered t (.sector 2) (.ok [3, 0]) && Table.get? t.eng.subs 3 == some (member 0xB0 2 7) &&
      Table.get? t.eng.tagMap 0xB0 == some 3) = true := by decide +kernel

theorem test_attach_handover :
    shows (exec (.attach ⟨.sector 2, []⟩) (ask busy (.sector 2) 0x10 [0, 0, 0, 0xA2, 4])) (fun t =>
      answered t (.sector 2) (.ok [2, 1]) &&
      Table.get? t.eng.subs 2 == some { member 0xA2 2 4 with grants := [2, 4] } &&
      (t.port (.sector 0)).oq ==
        [.notice (.grantEnded 3 .chainBroken), .notice (.handedOver 0xA2 2)]) = true := by decide +kernel

/-- S0 with its keepalive count one below its window and a full Outbound Queue. -/
def faint (s : State) : State :=
  s.setPort (.sector 0) { s.port (.sector 0) with keepalive := 49, oq := List.replicate 16 (.notice (.roundEnd 0)) }

/-- R118: S0's port is declared absent while a handover away from it executes. HANDED_OVER is discarded with no event, the
boundary comes next and then the detach, which passes the moved record by. -/
theorem test_attach_handover_in_an_absence :
    shows (exec (.attach ⟨.sector 2, [.freeRunPeriodExpiry]⟩) (ask (faint busy) (.sector 2) 0x10 [0, 0, 0, 0xA2, 4]))
      (fun t => answered t (.sector 2) (.ok [2, 1]) && (t.port (.sector 0)).health == .absent &&
        (t.port (.sector 0)).oq == [] && !Event.isIn (.noticeLost 0) t.events && t.nextItem == some .boundary &&
        t.arb.internal == [.sectorDetach 0] &&
        shows (exec .boundaryProcessing t) (fun u => u.nextItem == some (.internal (.sectorDetach 0)) &&
          shows (exec (.sectorDetachItem 0) u) (fun v =>
            (Table.get? v.eng.subs 2).map (fun x => (x.home, x.state)) == some (2, .attached)))) = true := by
  decide +kernel

theorem test_detach :
    shows (exec (.detach ⟨.sector 1, []⟩) (ask busy (.sector 1) 0x11 [1])) (fun t =>
      answered t (.sector 1) (.ok [0, 1]) && Table.get? t.eng.subs 1 == none && Table.get? t.eng.grants 1 == none &&
      t.eng.tagMap == [(0xA0, 0), (0xA2, 2)]) = true := by decide +kernel

theorem test_linkReport :
    shows (exec (.linkReport ⟨.sector 1, []⟩) (ask busy (.sector 1) 0x12 [0, 5, 3])) (fun t =>
      answered t (.sector 1) (.ok [1, 5, 1]) && (Table.get? t.eng.grants 0).map (·.stale) == some true &&
      (t.port (.sector 1)).oq.head? == some (.notice (.rangeChanged 0 2 5))) = true := by decide +kernel

/-- The second request of 2.6. -/
theorem test_grantRequest_worked :
    shows (exec (.grantRequest ⟨.sector 1, []⟩) (ask site (.sector 1) 0x13 [1, 2, 1, 0, 30, 0xFF])) (fun t =>
      answered t (.sector 1) (.ok [0, 1, 0, 1, 2, 2, 1, 2, 0]) &&
      Table.get? t.eng.grants 0 == some { waiting with admitted := 41 } && t.eng.cells.length == 12 &&
      t.eng.holder .ul 0 3 0 == some ⟨0, .guard⟩ && t.eng.changes == [⟨0, .activate, 2, false⟩]) = true := by
  decide +kernel

/-- The fifth request of 2.6. -/
theorem test_grantRequest_refused :
    shows (exec (.grantRequest ⟨.sector 1, []⟩) (ask site (.sector 1) 0x13 [0, 5, 1, 0, 10, 0xFF])) (fun t =>
      answered t (.sector 1) (.no .directionNotAllowed) && t.eng == site.eng) = true := by decide +kernel

theorem test_renew :
    shows (exec (.renew ⟨.sector 1, []⟩) (ask busy (.sector 1) 0x14 [0])) (fun t =>
      answered t (.sector 1) (.ok []) && (Table.get? t.eng.grants 0).map (·.renewed) == some true) = true := by
  decide +kernel

theorem test_release_on_air :
    shows (exec (.release ⟨.sector 0, []⟩) (ask busy (.sector 0) 0x15 [2])) (fun t =>
      answered t (.sector 0) (.ok []) && (Table.get? t.eng.grants 2).map (·.state) == some .releasing &&
      t.eng.changes.getLast? == some ⟨2, .retire, 1, false⟩ && t.eng.load == 32) = true := by decide +kernel

theorem test_release_waiting :
    shows (exec (.release ⟨.sector 0, []⟩) (ask busy (.sector 0) 0x15 [3])) (fun t =>
      (t.port (.sector 0)).oq == [.response 0x5A .ok []] && Table.get? t.eng.grants 3 == none &&
      (Table.get? t.eng.grants 2).map (·.succ) == some none && t.eng.load == 28) = true := by decide +kernel

/-- An on-air STANDARD grant ahead of a CHAINED EMERGENCY one, under a ceiling that the load exceeds. -/
def lifted : State :=
  { site with eng := { (put 1 { plain .chained 0 2 0 2 0b0001#4 with prio := .emergency, cost := 40, pred := some 0 }
      (put 0 { plain .active 0 2 0 1 0b0001#4 with succ := some 1 } site.eng)) with
        ceiling := 2, changes := [⟨1, .activate, 1, true⟩] } }

/-- R95: the release of the EMERGENCY grant lifts the protection of the one ahead of it, which the pass then ends. -/
theorem test_release_lifts_a_protection :
    shows (exec (.release ⟨.sector 0, []⟩) (ask lifted (.sector 0) 0x15 [1])) (fun t =>
      answered t (.sector 0) (.ok []) && t.eng.load == 0 && Event.isIn .budgetShed t.events &&
      (Table.get? t.eng.grants 0).map (·.state) == some (.withdrawn .shed)) = true := by decide +kernel

theorem test_setNotices :
    shows (exec (.setNotices ⟨.sector 0, []⟩) (ask site (.sector 0) 0x16 [0x83])) (fun t =>
      answered t (.sector 0) (.ok [0x03]) && (t.port (.sector 0)).notices == 0x03#7) = true := by decide +kernel

theorem test_sectorReboot :
    shows (exec (.sectorReboot ⟨.sector 1, []⟩) (ask busy (.sector 1) 0x17 [])) (fun t =>
      answered t (.sector 1) (.ok [2, 2]) && (t.port (.sector 1)).oq.length == 1 &&
      (Table.get? t.eng.grants 0).map (·.state) == some (.withdrawn .sectorReset)) = true := by decide +kernel

theorem test_grantQuery :
    shows (exec (.grantQuery ⟨.sector 1, []⟩) (ask busy (.sector 1) 0x20 [1])) (fun t =>
      answered t (.sector 1) (.ok [1, 1, 1, 1, 2, 1, 0x02, 0, 1, 2, 2, 0x07, 0, 0, 20, 20, 0xFF, 0xFF, 0, 40,
        0xFF, 0x12])) = true := by decide +kernel

theorem test_subscriberQuery :
    shows (exec (.subscriberQuery ⟨.site, []⟩) (ask busy .site 0x21 [2])) (fun t =>
      answered t .site (.ok [2, 1, 0, 0, 0, 0xA2, 0, 1, 15, 0, 3, 2, 3, 0x84])) = true := by decide +kernel

theorem test_scheduleQuery :
    shows (exec (.scheduleQuery ⟨.site, []⟩) (ask busy .site 0x22 [1, 0, 2])) (fun t =>
      answered t .site (.ok ([2, 1, 0, 0, 41, 1, 1, 0x81, 0x81] ++ List.replicate 11 0x7F ++ [0, 0]))) = true := by
  decide +kernel

theorem test_start :
    shows (exec (.start ⟨.site, []⟩ 1234) (ask State.reset .site 0x30 [])) (fun t =>
      answered t .site (.ok [1, 0, 0]) && t.op == .running && t.timer.state == .freeRun &&
      t.timer.lastBoundary == 1234 && t.timer.slot == none) = true := by decide +kernel

theorem test_standby :
    shows (exec (.standby ⟨.site, []⟩) (ask busy .site 0x31 [])) (fun t =>
      answered t .site (.ok [2, 4]) && t.op == .draining && t.eng.load == 0 &&
      (t.port (.sector 0)).oq == [.notice (.grantEnded 3 .chainBroken)] &&
      (t.port (.sector 1)).oq == [.notice (.grantEnded 1 .shutdown)]) = true := by decide +kernel

/-- R172: a boundary made while STANDBY executes waits until the part is in STANDBY, and then keys nothing. -/
theorem test_standby_boundary_stays_pending :
    shows (exec (.standby ⟨.site, [.freeRunPeriodExpiry]⟩) (ask site .site 0x31 [])) (fun t =>
      answered t .site (.ok [0, 0]) && t.op == .standby && t.arb.pendingBoundaries == 1 &&
      t.timer.frameCounter == 42 && t.timer.state == .stopped && t.nextItem == some .boundary &&
      shows (exec .boundaryProcessing t) (fun u => u.arb.pendingBoundaries == 0 && u.eng == t.eng)) = true := by
  decide +kernel

theorem test_softReset :
    shows (exec (.softReset ⟨.site, []⟩) (ask busy .site 0x32 [])) (fun t =>
      answered t .site (.ok []) && t.op == .standby && t.eng == Engine.reset && t.classes == busy.classes &&
      t.timer.frameCounter == 41) = true := by decide +kernel

theorem test_configure :
    shows (exec (.configure ⟨.site, []⟩) (ask State.reset .site 0x33 [0x02, 0, 0x4E, 0x20])) (fun t =>
      answered t .site (.ok [0x02, 0, 0x4E, 0x20]) && t.items.framePeriod == 20000) = true := by decide +kernel

theorem test_readConfig :
    shows (exec (.readConfig ⟨.site, []⟩) (ask site .site 0x34 [0x08, 1])) (fun t =>
      answered t .site (.ok [0x08, 1, 0, 0b1101])) = true := by decide +kernel

theorem test_blockTiles_gentle :
    shows (exec (.blockTiles ⟨.site, []⟩) (ask busy .site 0x35 [0, 0, 1, 15, 1, 0])) (fun t =>
      answered t .site ⟨.tileInUse, [2]⟩ && t.eng == busy.eng) = true := by decide +kernel

theorem test_blockTiles_force :
    shows (exec (.blockTiles ⟨.site, []⟩) (ask busy .site 0x35 [0, 0, 2, 14, 1, 1])) (fun t =>
      answered t .site (.ok [14, 2]) && t.eng.blocked.length == 14 &&
      (Table.get? t.eng.grants 0).map (·.state) == some (.withdrawn .blocked) &&
      Table.get? t.eng.grants 3 == none) = true := by decide +kernel

theorem test_setCeiling :
    shows (exec (.setCeiling ⟨.site, []⟩) (ask busy .site 0x36 [0, 24])) (fun t =>
      answered t .site (.ok [0, 24, 2]) && t.eng.ceiling == 24 && Event.isIn .budgetShed t.events &&
      (Table.get? t.eng.grants 2).map (·.state) == some (.withdrawn .shed) &&
      Table.get? t.eng.grants 3 == none) = true := by decide +kernel

theorem test_hold :
    shows (exec (.hold ⟨.site, []⟩) (ask busy .site 0x37 [])) (fun t => answered t .site (.ok []) && t.eng.hold) = true := by
  decide +kernel

theorem test_unhold :
    shows (exec (.unhold ⟨.site, []⟩) (ask { busy with eng := { busy.eng with hold := true } } .site 0x38 [])) (fun t =>
      answered t .site (.ok []) && !t.eng.hold && t.eng.flush) = true := by decide +kernel

theorem test_forceRelease :
    shows (exec (.forceRelease ⟨.site, []⟩) (ask busy .site 0x39 [2])) (fun t =>
      answered t .site (.ok [2]) && (Table.get? t.eng.grants 2).map (·.state) == some (.withdrawn .forced) &&
      Table.get? t.eng.grants 3 == none && t.eng.load == 24) = true := by decide +kernel

theorem test_sectorReset :
    shows (exec (.sectorReset ⟨.site, []⟩) (ask busy .site 0x3A [0])) (fun t =>
      answered t .site (.ok [1, 2]) && (t.port (.sector 0)).oq == []) = true := by decide +kernel

theorem test_templateWrite :
    shows (exec (.templateWrite ⟨.site, []⟩) (ask site .site 0x3B [9, 1, 0, 1, 8, 3, 2, 0x0F, 0x03])) (fun t =>
      answered t .site (.ok []) &&
      t.templates[9] == ⟨.persistent, 256, .nearest, 8, .emergency, .either, 0x0F#8, true, true⟩) = true := by
  decide +kernel

theorem test_templateRead :
    shows (exec (.templateRead ⟨.site, []⟩) (ask site .site 0x3C [5])) (fun t =>
      answered t .site (.ok [5, 1, 50, 0, 3, 2, 0, 0x03, 0, 0, 0x20, 0, 0x20])) = true := by decide +kernel

theorem test_classWrite :
    shows (exec (.classWrite ⟨.site, []⟩) (ask site .site 0x3D [9, 2, 1])) (fun t =>
      answered t .site (.ok [2, 1]) && t.classes[9] == ⟨2, true⟩) = true := by decide +kernel

theorem test_classWrite_refused :
    shows (exec (.classWrite ⟨.site, []⟩) (ask site .site 0x3D [5, 2, 0])) (fun t =>
      answered t .site ⟨.classEnabled, [5]⟩ && t.classes == site.classes) = true := by decide +kernel

theorem test_statusRead :
    shows (exec (.statusRead ⟨.site, []⟩) (ask ((site.latch .syncLost).latch .grantTableFull) .site 0x3E [])) (fun t =>
      answered t .site (.ok [0x20, 0, 0x01, 1, 1, 0, 0, 0, 41]) && t.events == 0) = true := by decide +kernel

theorem test_portStatus :
    shows (exec (.portStatus ⟨.site, []⟩) (ask site .site 0x3F [])) (fun t =>
      answered t .site (.ok [0x40, 0, 0, 0, 0x40, 0, 0, 0, 0x40, 0, 0, 0, 0x40, 0, 0, 0, 0x40, 0, 0x01, 0,
        0x7F, 0x7F, 0x7F, 0x7F])) = true := by decide +kernel

theorem test_loadQuery :
    shows (exec (.loadQuery ⟨.site, []⟩) (ask busy .site 0x40 [])) (fun t =>
      answered t .site (.ok [0x04, 0, 0, 32, 0, 0])) = true := by decide +kernel

/-! ### The hypotheses of the statements are met -/

/-- What an option holds, checked. -/
theorem some_has {α : Type} {o : Option α} {P : α → Prop} [DecidablePred P]
    (h : o.any (fun x => decide (P x)) = true) : ∃ x, o = some x ∧ P x := by
  cases o with
  | none => cases h
  | some x => exact ⟨x, rfl, by simpa using h⟩

/-- What holds of the value of an option, checked. -/
theorem every {α : Type} {o : Option α} {P : α → Prop} [DecidablePred P]
    (h : o.all (fun x => decide (P x)) = true) : ∀ x, o = some x → P x := by
  intro x hx
  subst hx
  simpa using h

/-- What holds of the head of a list, checked. -/
theorem everyHead {α : Type} {l : List α} {P : α → Prop} [DecidablePred P]
    (h : l.head?.all (fun x => decide (P x)) = true) : ∀ x rest, l = x :: rest → P x := by
  intro x rest hx
  subst hx
  simpa using h

/-- The next state of an outcome. -/
def after (o : Out) : State :=
  match o with
  | .next t => t
  | .fault _ => State.reset
  | .refused _ => State.reset

theorem next_after {o : Out} (h : shows o (fun _ => true) = true) : o = .next (after o) := by
  cases o with
  | next t => rfl
  | fault f => cases h
  | refused r => cases h

/-! ### Lawful engines, the premise of many statements -/

/-- The laws of the tables, of the loads, and of the links and lists of grants. -/
abbrev laws (e : Engine) : Prop := e.lawful ∧ e.linksLawful

/-- The laws of the links and lists as a check. -/
def linked (e : Engine) : Bool :=
  decide (e.admission.Nodup) &&
  e.subs.all (fun x => decide (x.2.grants = e.admission.filter (fun i =>
    decide ((Table.get? e.grants i).map (·.sub) = some x.1)) ∧ (e.countedOf x.2).length ≤ 4 ∧
    (x.2.state = .detaching → x.2.grants ≠ []))) &&
  e.grants.all (fun x =>
    (Table.get? e.subs x.2.sub).any (fun r =>
      decide (x.2.state.isWithdrawn = false → r.state ≠ .detaching ∧ r.home = x.2.owner)) &&
    decide (x.2.state = .chained ↔ x.2.pred ≠ none) &&
    x.2.pred.all (fun p => (Table.get? e.grants p).any (fun y => decide (y.mode = .oneShot ∧ y.sub = x.2.sub ∧
      y.owner = x.2.owner ∧ y.state.isWithdrawn = false ∧ y.succ = some x.1))) &&
    x.2.succ.all (fun j => (Table.get? e.grants j).any (fun y =>
      decide (y.state = .chained ∧ y.pred = some x.1))) &&
    decide ((chainUp e.grants 5 (some x.1)).length ≤ 4) &&
    decide (x.2.state.offAir = true ∨ x.2.state = .releasing → x.1 ∈ e.changes.map (·.id))) &&
  decide ((e.changes.map (·.id)).Nodup) &&
  e.changes.all (fun x => (Table.get? e.grants x.id).any (fun g => decide (
    ((x.kind = .activate ∧ g.state.offAir = true) ∨ (x.kind = .retire ∧ g.state = .releasing)) ∧
    (x.mark = true ↔ g.state = .chained))))

theorem linked_lawful {e : Engine} (h : linked e = true) : e.linksLawful := by
  simp only [linked, Bool.and_eq_true, List.all_eq_true, decide_eq_true_eq] at h
  obtain ⟨⟨⟨⟨h1, h2⟩, h3⟩, h4⟩, h5⟩ := h
  refine ⟨⟨h1, fun x hx => h2 x hx, fun x hx => some_has (h3 x hx).1.1.1.1.1⟩,
    ⟨fun x hx => ⟨(h3 x hx).1.1.1.1.2, ?_, ?_⟩, fun x hx => (h3 x hx).1.2⟩,
    h4, fun x hx => some_has (h5 x hx), fun x hx => (h3 x hx).2⟩
  · intro p hp
    have := (h3 x hx).1.1.1.2
    rw [hp] at this
    exact some_has this
  · intro j hj
    have := (h3 x hx).1.1.2
    rw [hj] at this
    exact some_has this

/-- An engine whose tables pass the checks is lawful. -/
theorem laws_of {e : Engine} (h : linked e = true)
    (ht : Table.wf e.cells ∧ Table.wf e.blocked ∧ Table.wf e.grants ∧ Table.wf e.subs ∧ Table.wf e.tagMap)
    (hl : (∀ i ∈ e.admission, Table.has e.grants i = true) ∧ (∀ x ∈ e.grants, x.1 ∈ e.admission) ∧
      ∀ x ∈ e.changes, Table.has e.grants x.id = true)
    (hs : e.load = e.sumCosts (fun _ => true) ∧ e.emergencyLoad = e.sumCosts (fun g => decide (g.prio = .emergency))) :
    laws e := ⟨⟨ht, hl, hs⟩, linked_lawful h⟩

theorem site_laws : laws site.eng :=
  laws_of (by decide +kernel) (by decide +kernel) (by decide +kernel) (by decide +kernel)

theorem busy_laws : laws busy.eng :=
  laws_of (by decide +kernel) (by decide +kernel) (by decide +kernel) (by decide +kernel)

/-- The laws do not read the ports. -/
theorem ask_laws {s : State} (h : laws s.eng) (p : PortId) (kind : Byte) (params : List Byte) :
    laws (ask s p kind params).eng := h

theorem lifted_laws : laws lifted.eng :=
  laws_of (by decide +kernel) (by decide +kernel) (by decide +kernel) (by decide +kernel)

theorem test_meets_StepRunsFrontCommand :
    (site.withPending [.fmarkPulseEnd, .deviceReset]).pending = .fmarkPulseEnd :: [.deviceReset] ∧
    site.pending = [] := by decide +kernel

/-- A queue for each clause of the arbiter's choice. -/
def heads (s0 s1 s2 s3 sp : List Request) : State :=
  { site with ports := ⟨{ livePort with rq := s0 }, { livePort with rq := s1 }, { livePort with rq := s2 },
      { livePort with rq := s3 }, { livePort with rq := sp }⟩ }

def urgentAsk : Request := asked 0x13 [2, 7, 0, 0, 30, 0xFF]
def calmAsk : Request := asked 0x13 [2, 2, 0, 0, 30, 0xFF]

theorem test_meets_ArbiterServesInOrder :
    ((due busy).arb.executing = none ∧ (due busy).arb.pendingBoundaries ≠ 0) ∧
    ((owes busy .siteAbsence).arb.executing = none ∧ (owes busy .siteAbsence).arb.pendingBoundaries = 0 ∧
      (owes busy .siteAbsence).arb.internal = .siteAbsence :: []) ∧
    (∀ n : Sector, n = 0 ∨ n = 3 →
      let s := if n = 0 then heads [urgentAsk] [urgentAsk] [] [calmAsk] [] else
        heads [calmAsk] [] [calmAsk] [urgentAsk] [asked 0x37 []]
      s.arb.executing = none ∧ s.arb.pendingBoundaries = 0 ∧ s.arb.internal = [] ∧
      (s.port (.sector n)).rq = urgentAsk :: [] ∧ s.emergencyRequest urgentAsk = true ∧
      ∀ m : Sector, m < n → (s.port (.sector m)).rq.head?.all (fun r => !s.emergencyRequest r) = true) ∧
    (let s := heads [calmAsk] [] [] [] [asked 0x37 []];
      s.arb.executing = none ∧ s.arb.pendingBoundaries = 0 ∧ s.arb.internal = [] ∧ (s.port .site).rq ≠ [] ∧
      ∀ m : Sector, (s.port (.sector m)).rq.head?.all (fun r => !s.emergencyRequest r) = true) ∧
    (∀ d : Nat, d = 1 ∨ d = 4 →
      let n : Sector := if d = 1 then 0 else 3
      let s := if d = 1 then heads [calmAsk] [calmAsk] [] [calmAsk] [] else heads [] [] [] [calmAsk] []
      s.arb.executing = none ∧ s.arb.pendingBoundaries = 0 ∧ s.arb.internal = [] ∧ (s.port .site).rq = [] ∧
      n.val = (s.arb.lastServed.val + d) % 4 ∧ (s.port (.sector n)).rq ≠ [] ∧
      (∀ m : Sector, (s.port (.sector m)).rq.head?.all (fun r => !s.emergencyRequest r) = true) ∧
      ∀ d' : Nat, d' < d → 1 ≤ d' → ∀ m : Sector, m.val = (s.arb.lastServed.val + d') % 4 →
        (s.port (.sector m)).rq = []) ∧
    (site.arb.executing = none ∧ site.arb.pendingBoundaries = 0 ∧ site.arb.internal = [] ∧
      (site.port .site).rq = [] ∧ ∀ m : Sector, (site.port (.sector m)).rq = []) := by
  refine ⟨by decide +kernel, by decide +kernel, ?_, by decide +kernel, ?_, by decide +kernel⟩
  · intro n h; rcases h with rfl | rfl <;> decide +kernel
  · intro d h; rcases h with rfl | rfl <;> decide +kernel

/-- An UNHOLD that a boundary finds executing, where SP outlives the boundary and where it is declared absent. -/
theorem test_meets_ArbiterServesInOrder_with_a_boundary :
    let s := ask site .site 0x38 []
    let w := s.setPort .site { s.port .site with keepalive := 199 }
    let r := asked 0x38 []
    (s.nextItem = some (.request .site) ∧ s.arb.discard = false ∧ (s.onTimer .freeRunPeriodExpiry).arb ≠ s.arb ∧
      ((s.onTimer .freeRunPeriodExpiry).port .site).rq = r :: [] ∧ r.kind ≠ Kind.softReset.code ∧
      r.kind ≠ Kind.portStatus.code) ∧
    (w.nextItem = some (.request .site) ∧ (w.port .site).rq = r :: [] ∧ (w.port .site).health ≠ .absent ∧
      ((w.onTimer .freeRunPeriodExpiry).port .site).health = .absent) ∧
    r.commands .unhold ∧ (asked 0x41 []).commands .unknownKindRequest := by
  refine ⟨by decide +kernel, by decide +kernel, .inl ⟨.unhold, 0, rfl, rfl⟩, .inr ⟨?_, rfl⟩⟩
  intro k
  cases k <;> decide

theorem test_meets_ItemNotHandedOverChangesNothing :
    (site.nextItem ≠ some .boundary ∧ ∀ n : Sector, (owes site (.sectorDetach 0)).nextItem ≠
      some (.internal (.sectorDetach (n + 1))) ∨ n = 3) ∧
    (site.nextItem ≠ some (.internal .siteAbsence) ∧ site.nextItem ≠ some (.request .site)) ∧
    (((ask site .site 0x37 []).port .site).rq = asked 0x37 [] :: [] ∧ (asked 0x37 []).kind ≠ Kind.code .unhold) := by
  decide +kernel

theorem test_meets_PermissionRefusals :
    ((ask site (.sector 0) 0x30 [9]).serving (.sector 0) .start (asked 0x30 [9]) [] ∧
      Kind.permitted .start (.sector 0) = false) ∧
    ((ask site .site 0x10 []).serving .site .attach (asked 0x10 []) [] ∧ Kind.permitted .attach .site = false) ∧
    ((ask site (.sector 3) 0x11 [0]).serving (.sector 3) .detach (asked 0x11 [0]) [] ∧
      site.items.sectorsEnabled.getLsbD 3 = false ∧ (parseHandle [0]).isSome = true) ∧
    ((ask site (.sector 3) 0x12 [0, 7, 15]).serving (.sector 3) .linkReport (asked 0x12 [0, 7, 15]) [] ∧
      (parseLinkReport [0, 7, 15]).isSome = true) ∧
    ((ask site (.sector 3) 0x14 [95]).serving (.sector 3) .renew (asked 0x14 [95]) [] ∧
      (ask site (.sector 3) 0x15 [95]).serving (.sector 3) .release (asked 0x15 [95]) [] ∧
      (parseGrantId [95]).isSome = true) := by decide +kernel

/-- One witness for each bound of R186, at its border. -/
theorem test_meets_PermissionRefusals_out_of_range :
    (∀ x ∈ ([(.sector 0, .attach, [0, 0, 0, 0, 7]), (.sector 0, .attach, [0, 0, 0, 1, 8]),
        (.sector 0, .linkReport, [0, 8, 0]), (.sector 0, .linkReport, [0, 0, 16]),
        (.sector 0, .grantRequest, [0, 16, 0, 0, 1, 0]), (.sector 0, .grantRequest, [0, 0, 2, 0, 1, 0]),
        (.sector 0, .grantRequest, [0, 0, 0, 0, 0, 0]), (.sector 0, .grantRequest, [0, 0, 0, 16, 0, 0]),
        (.sector 0, .grantRequest, [0, 0, 0, 0, 1, 96]), (.sector 0, .grantRequest, [0, 0, 0, 0, 1, 254]),
        (.sector 0, .renew, [96]), (.sector 0, .release, [96]), (.site, .grantQuery, [96]),
        (.site, .forceRelease, [96]), (.sector 0, .scheduleQuery, [2, 0]), (.sector 0, .scheduleQuery, [0, 8]),
        (.site, .scheduleQuery, [0, 0, 4]), (.site, .blockTiles, [2, 0, 1, 1, 0, 0]),
        (.site, .blockTiles, [0, 8, 1, 1, 0, 0]), (.site, .blockTiles, [0, 0, 0, 1, 0, 0]),
        (.site, .blockTiles, [0, 0, 1, 0, 0, 0]), (.site, .blockTiles, [0, 0, 15, 2, 0, 0]),
        (.site, .blockTiles, [0, 0, 1, 1, 2, 0]), (.site, .blockTiles, [0, 0, 1, 1, 0, 2]),
        (.site, .setCeiling, [16, 0]), (.site, .sectorReset, [4]), (.site, .templateRead, [24]),
        (.site, .classWrite, [16, 0, 0]), (.site, .classWrite, [0, 24, 0]), (.site, .classWrite, [0, 0, 2])] :
        List (PortId × Kind × List Byte)),
      (ask site x.1 x.2.1.code x.2.2).serving x.1 x.2.1 (asked x.2.1.code x.2.2) [] ∧
      x.2.1.permitted x.1 = true ∧ x.2.2.length = x.2.1.paramLength x.1) := by decide +kernel

theorem test_meets_WrongLengthIsBadParameter :
    ((ask site .site 0x36 [0]).serving .site .setCeiling (asked 0x36 [0]) [] ∧
      (ask site .site 0x36 [0, 0, 0]).serving .site .setCeiling (asked 0x36 [0, 0, 0]) [] ∧
      Kind.permitted .setCeiling .site = true ∧ [0].length ≠ Kind.paramLength .setCeiling .site ∧
      [0, 0, 0].length ≠ Kind.paramLength .setCeiling .site) ∧
    ((ask site .site 0x22 [0, 0]).serving .site .scheduleQuery (asked 0x22 [0, 0]) [] ∧
      [0, 0].length ≠ Kind.paramLength .scheduleQuery .site) ∧
    (parseGrantRequest [0, 0, 0, 0, 1, 0xFF]).isSome = true ∧
    ((0x13 : Byte) ≠ 0xFF#8 ∧ 24 < (25 : Byte).toNat) := by decide +kernel

theorem test_meets_UnknownKindIsAnswered :
    ((ask site (.sector 0) 0x41 [1]).nextItem = some (.request (.sector 0)) ∧
      ((ask site (.sector 0) 0x41 [1]).port (.sector 0)).rq = asked 0x41 [1] :: [] ∧
      (ask site (.sector 0) 0x41 [1]).arb.discard = false ∧ ∀ k : Kind, k.code ≠ (asked 0x41 [1]).kind) ∧
    classify (withCrc [0x41, 0x5A, 0x00]) = .request (asked 0x41 []) ∧
    (let oq : List OutEntry := List.replicate 8 (.notice (.roundEnd 0))
     let q : Port := { livePort with rq := List.replicate 7 calmAsk, owed := 7, oq := oq }
     q.rq.length < 8 ∧ q.oq.length + q.owed < 16) ∧
    site.emergencyRequest urgentAsk = true ∧
    ((ask site .site 0x17 [1]).serving .site .sectorReboot (asked 0x17 [1]) [] ∧
      Kind.permitted .sectorReboot .site = false) := by
  refine ⟨⟨by decide +kernel, by decide +kernel, by decide +kernel, ?_⟩, by decide +kernel, by decide +kernel,
    by decide +kernel, by decide +kernel⟩
  intro k
  cases k <;> decide

theorem test_meets_DemandNormalisation :
    (96 = 8 * 12 + 0 ∧ 0 < 12) ∧ (100 = 2 * 40 + 20 ∧ 20 < 40 ∧ 40 ≤ 2 * 20) ∧ (23 = 0 * 48 + 23 ∧ 2 * 23 < 48) ∧
    step8 site.items ⟨1, 2, .ul, 30, none⟩ (member 0xA1 1 6) site.templates[2] = .ok 2 := by
  exact ⟨by decide, by decide, by decide, rfl⟩

/-- The cause of a plan that is refused. -/
def planCause (x : Except Cause Plan) : Option Cause :=
  match x with
  | .error c => some c
  | .ok _ => none

/-- A subscriber with four counted grants, of which the last is chained behind the others in turn. -/
def filled : State :=
  { site with
    eng := (put 3 { plain .chained 0 2 0 4 0b0001#4 with pred := some 2 }
      (put 2 { plain .chained 0 2 0 3 0b0001#4 with pred := some 1, succ := some 3 }
      (put 1 { plain .chained 0 2 0 2 0b0001#4 with pred := some 0, succ := some 2 }
      (put 0 { plain .active 0 2 0 1 0b0001#4 with succ := some 1 } site.eng)))) }

/-- The same grants on the list of another subscriber, so that the limit check passes. -/
def astray : State :=
  { filled with eng := { filled.eng with subs := Table.upd filled.eng.subs 2 (fun y => { y with grants := [] }) } }

/-- Every grant record in use, no cell held. -/
def noRecord : State :=
  { site with eng := { site.eng with
      grants := (List.range 96).map (fun i => (i, plain (.withdrawn .forced) 1 0 0 1 0b0010#4)) } }

/-- Every uplink tile blocked. -/
def noTile : State :=
  { site with eng := { site.eng with
      blocked := (List.range 8).flatMap (fun c => (List.range 15).map (fun i => ((8 + c) * 16 + i + 1, ()))) } }

/-- A subscriber in SUSPECT. -/
def suspected : State :=
  { site with eng := { site.eng with
      subs := Table.upd site.eng.subs 2 (fun y => { y with state := .suspect, run := 2 }) } }

/-- The busy site under a ceiling of 32, which its load meets. -/
def tight : State := { busy with eng := { busy.eng with ceiling := 32 } }

theorem test_meets_AdmissionRefusals :
    let p := asked 0x13
    let ok (s : State) (n : Sector) (l : List Byte) : Bool :=
      decide ((ask s (.sector n) 0x13 l).serving (.sector n) .grantRequest (p l) []) && (parseGrantRequest l).isSome
    (ok State.reset 0 [2, 2, 0, 0, 50, 0xFF] = true ∧ State.reset.op ≠ .running) ∧
    (ok site 3 [2, 2, 0, 0, 50, 0xFF] = true ∧ site.items.sectorsEnabled.getLsbD 3 = false) ∧
    (ok site 0 [3, 2, 0, 0, 50, 0xFF] = true ∧ Table.get? site.eng.subs 3 = none) ∧
    (ok site 1 [2, 2, 0, 0, 50, 0xFF] = true ∧ (Table.get? site.eng.subs 2).map (·.home) = some 0) ∧
    (ok site 0 [2, 3, 0, 0, 50, 0xFF] = true ∧ site.classes[3].enabled = false) ∧
    (ok site 1 [0, 5, 1, 0, 10, 0xFF] = true ∧ site.templates[5].direction.accepts .ul = false) ∧
    (ok suspected 0 [2, 2, 0, 0, 50, 0xFF] = true ∧
      (Table.get? suspected.eng.subs 2).map (·.state) = some .suspect ∧ site.templates[2].priority ≠ .emergency) ∧
    (ok filled 0 [2, 2, 0, 0, 50, 0xFF] = true ∧
      (Table.get? filled.eng.subs 2).all (fun x => decide (4 ≤ (filled.eng.countedOf x).length)) = true) ∧
    (ok busy 0 [2, 2, 0, 0, 50, 95] = true ∧ Table.get? busy.eng.grants 95 = none ∧
      (Table.get? busy.eng.subs 2).all (fun x => decide ((busy.eng.countedOf x).length < 4)) = true) ∧
    (ok busy 1 [0, 2, 0, 0, 50, 0] = true ∧ (Table.get? busy.eng.grants 0).map (·.mode) = some .persistent) ∧
    (ok astray 0 [2, 2, 0, 0, 50, 3] = true ∧ 4 ≤ (astray.eng.protectedBy (some 3)).length ∧
      (Table.get? astray.eng.grants 3).map (·.mayPrecede 2) = some true ∧
      (Table.get? astray.eng.subs 2).all (fun x => decide ((astray.eng.countedOf x).length < 4)) = true) ∧
    (ok site 0 [2, 2, 0, 0x0F, 0xFF, 0xFF] = true ∧ site.templates[2].maxSlots < normalise 4095 48 .nearest) ∧
    (ok noTile 0 [2, 2, 1, 0, 50, 0xFF] = true ∧
      planCause (planGrant 0 ⟨2, 2, .ul, 50, none⟩ (ask noTile (.sector 0) 0x13 [2, 2, 1, 0, 50, 0xFF])) =
        some .noPlacement) ∧
    (ok filled 0 [2, 7, 0, 0, 50, 3] = true ∧ filled.templates[7].priority = .emergency ∧
      (Table.get? filled.eng.subs 2).all (fun x => decide (4 ≤ (filled.eng.countedOf x).length ∧
        ∀ i ∈ filled.eng.countedOf x, i ∈ filled.eng.protectedBy (some 3))) = true) ∧
    (ok busy 0 [2, 2, 0, 0x0F, 0xFF, 3] = true ∧ (busy.eng.protectedBy (some 3)).length < 4 ∧
      (Table.get? busy.eng.grants 3).map (·.mayPrecede 2) = some true) ∧
    (ok tight 0 [2, 2, 0, 0, 50, 0xFF] = true ∧
      planCause (planGrant 0 ⟨2, 2, .dl, 50, none⟩ (ask tight (.sector 0) 0x13 [2, 2, 0, 0, 50, 0xFF])) =
        some .overBudget) ∧
    (ok noRecord 0 [2, 2, 0, 0, 50, 0xFF] = true ∧
      planCause (planGrant 0 ⟨2, 2, .dl, 50, none⟩ (ask noRecord (.sector 0) 0x13 [2, 2, 0, 0, 50, 0xFF])) =
        some .tableFull) := by
  decide +kernel

/-- The second request of 2.6, and a request with a predecessor. -/
theorem test_meets_AdmissionEntersTheGrant :
    (let s := ask site (.sector 1) 0x13 [1, 2, 1, 0, 30, 0xFF]
     let q : GrantReq := ⟨1, 2, .ul, 30, none⟩
     let x := member 0xA1 1 6
     s.serving (.sector 1) .grantRequest (asked 0x13 [1, 2, 1, 0, 30, 0xFF]) [] ∧
     parseGrantRequest [1, 2, 1, 0, 30, 0xFF] = some q ∧ s.op = .running ∧
     s.items.sectorsEnabled.getLsbD 1 = true ∧ Table.get? s.eng.subs 1 = some x ∧ s.classes[q.cls].enabled = true ∧
     (s.templates[s.classes[q.cls].template]).direction.accepts q.dir = true ∧ (s.eng.countedOf x).length < 4 ∧
     normalise 30 s.items.capacityTable[x.range] .nearest = 2 ∧ q.pred = none ∧
     (Query.mk .ul 2 (guardCount s.items .ul 6) (s.items.exclusion 6 1) (0xFF#8 &&& s.items.carriersEnabled) .standard
       (s.eng.protectedBy none) false).search s.eng = some (⟨0, 1⟩, []) ∧
     s.eng.load + costOf s.items .ul 2 0 6 ≤ s.eng.ceiling ∧ Table.get? s.eng.grants 0 = none) ∧
    (let s := ask busy (.sector 0) 0x13 [2, 2, 0, 0, 50, 3]
     let q : GrantReq := ⟨2, 2, .dl, 50, some 3⟩
     let x := { member 0xA2 0 1 with grants := [2, 3, 4] }
     s.serving (.sector 0) .grantRequest (asked 0x13 [2, 2, 0, 0, 50, 3]) [] ∧
     parseGrantRequest [2, 2, 0, 0, 50, 3] = some q ∧ s.op = .running ∧
     s.items.sectorsEnabled.getLsbD 0 = true ∧ Table.get? s.eng.subs 2 = some x ∧ s.classes[q.cls].enabled = true ∧
     (s.templates[s.classes[q.cls].template]).direction.accepts q.dir = true ∧ (s.eng.countedOf x).length < 4 ∧
     (s.eng.protectedBy (some 3)).length < 4 ∧ (Table.get? s.eng.grants 3).map (·.mayPrecede 2) = some true ∧
     normalise 50 s.items.capacityTable[x.range] .nearest = 1 ∧
     (Query.mk .dl 1 (guardCount s.items .dl 1) (s.items.exclusion 1 0) (0xFF#8 &&& s.items.carriersEnabled) .standard
       (s.eng.protectedBy (some 3)) false).search s.eng = some (⟨0, 3⟩, []) ∧
     s.eng.load + costOf s.items .dl 1 0 1 ≤ s.eng.ceiling ∧ Table.get? s.eng.grants 5 = none ∧
     ∀ j, j < 5 → Table.get? s.eng.grants j ≠ none) := by decide +kernel

/-- Every downlink tile of carriers 0 and 1 held by the four waiting grants of sector 0's subscriber. -/
def pressed : State :=
  let run (c : Carrier) (f k : Nat) : Grant := { plain .pending 0 2 c f 0b0001#4 with k := k, cost := 4 * k }
  { site with eng := { put 3 (run 1 9 7) (put 2 (run 1 1 8) (put 1 (run 0 9 7) (put 0 (run 0 1 8) site.eng))) with
      changes := [⟨0, .activate, 2, false⟩, ⟨1, .activate, 2, false⟩, ⟨2, .activate, 2, false⟩,
        ⟨3, .activate, 2, false⟩] } }

theorem pressed_laws : laws pressed.eng :=
  laws_of (by decide +kernel) (by decide +kernel) (by decide +kernel) (by decide +kernel)

/-- An EMERGENCY request that displaces victims, with a limit victim and without. -/
theorem test_meets_AdmissionEntersTheGrant_displacing :
    laws pressed.eng ∧
    (let s := ask pressed (.sector 0) 0x13 [2, 7, 0, 0, 50, 0xFF]
     let q : GrantReq := ⟨2, 7, .dl, 50, none⟩
     let x := { member 0xA2 0 1 with grants := [0, 1, 2, 3] }
     s.serving (.sector 0) .grantRequest (asked 0x13 [2, 7, 0, 0, 50, 0xFF]) [] ∧
     parseGrantRequest [2, 7, 0, 0, 50, 0xFF] = some q ∧ s.items.sectorsEnabled.getLsbD 0 = true ∧
     Table.get? s.eng.subs 2 = some x ∧ s.classes[q.cls].enabled = true ∧
     s.templates[s.classes[q.cls].template].priority = .emergency ∧
     s.eng.countedOf x = [0, 1, 2] ++ 3 :: [] ∧ 3 ∉ s.eng.protectedBy none ∧
     (Table.get? s.eng.grants 3).all (fun g => decide (g.prio ≠ .emergency)) = true ∧
     normalise 50 s.items.capacityTable[x.range] .nearest = 1 ∧
     (Query.mk .dl 1 (guardCount s.items .dl 1) (s.items.exclusion 1 0) (0x03#8 &&& s.items.carriersEnabled) .emergency
       (s.eng.protectedBy none) false).search s.eng = some (⟨0, 1⟩, [0]) ∧
     Table.get? s.eng.grants 4 = none ∧ ∀ j, j < 4 → Table.get? s.eng.grants j ≠ none) ∧
    (let s := ask pressed (.sector 1) 0x13 [1, 7, 0, 0, 10, 0xFF]
     let q : GrantReq := ⟨1, 7, .dl, 10, none⟩
     let x := member 0xA1 1 6
     s.serving (.sector 1) .grantRequest (asked 0x13 [1, 7, 0, 0, 10, 0xFF]) [] ∧
     parseGrantRequest [1, 7, 0, 0, 10, 0xFF] = some q ∧ Table.get? s.eng.subs 1 = some x ∧
     (s.eng.countedOf x).length < 4 ∧ normalise 10 s.items.capacityTable[x.range] .nearest = 1 ∧
     (Query.mk .dl 1 (guardCount s.items .dl 6) (s.items.exclusion 6 1) (0x03#8 &&& s.items.carriersEnabled) .emergency
       (s.eng.protectedBy none) false).search s.eng = some (⟨0, 1⟩, [0])) :=
  ⟨pressed_laws, by decide +kernel, by decide +kernel⟩

/-- A query whose first free fit on the busy site is the third candidate. -/
def modest : Query := ⟨.dl, 1, 0, 0b0001#4, 0x0F#8, .standard, [], false⟩

theorem test_meets_SearchTakesFirstFreeFit :
    urgent.search crowded = some (⟨1, 7⟩, [33]) ∧
    (let candidate (c : Carrier) (f : Nat) : Prop :=
       modest.carriers.getLsbD c.val = true ∧ 1 ≤ f ∧ f + modest.k + modest.g ≤ 16
     let unblocked (c : Carrier) (f : Nat) : Prop :=
       ∀ slot, f ≤ slot → slot < f + modest.k + modest.g → busy.eng.isBlocked modest.dir c slot = false
     let fits (c : Carrier) (f : Nat) : Prop := candidate c f ∧ unblocked c f ∧
       ∀ slot n h, f ≤ slot → slot < f + modest.k + modest.g → modest.excl.getLsbD n.val = true →
         busy.eng.holder modest.dir c slot n = some h → busy.eng.withdrawnGrant h.grant = true
     fits 0 3 ∧ ∀ (c' : Carrier) f', c' < 0 ∨ (c' = 0 ∧ f' < 3) → ¬ fits c' f') := by
  refine ⟨by decide +kernel, ⟨by decide, ?_, ?_⟩, ?_⟩
  · intro slot h1 h2
    exact rfl
  · intro slot n h h1 h2 hx hh
    have hs : slot = 3 := by have : modest.k + modest.g = 1 := rfl; omega
    subst hs
    have key : ∀ n : Sector, modest.excl.getLsbD n.val = true → busy.eng.holder modest.dir 0 3 n = none := by
      decide +kernel
    rw [key n hx] at hh
    cases hh
  · intro c' f' h hf
    rcases h with h | ⟨rfl, h⟩
    · exact absurd h (Fin.not_lt_zero _)
    · have h1 := hf.1.2.1
      have hheld : ∀ f, f < 3 → 1 ≤ f →
          (busy.eng.holder modest.dir 0 f 0).any (fun x => !busy.eng.withdrawnGrant x.grant) = true := by
        decide +kernel
      have := hheld f' h h1
      cases hh : busy.eng.holder modest.dir 0 f' 0 with
      | none => rw [hh] at this; cases this
      | some x =>
        rw [hh] at this
        have hw := hf.2.2 f' 0 x (Nat.le_refl _) (by have : modest.k + modest.g = 1 := rfl; omega) rfl hh
        simp [hw] at this

theorem test_meets_PreemptFitHasFewestVictims :
    (∀ spot ∈ urgent.spots, urgent.freeFit crowded spot = false) ∧
    (∀ p : Priority, p = .background ∨ p = .standard ∨ p = .priority →
      ∀ spot ∈ ({ urgent with prio := p } : Query).spots, ({ urgent with prio := p } : Query).freeFit crowded spot =
        false) ∧
    (let q : Query := { urgent with prot := [30, 31, 33, 34] };
      (∀ spot ∈ q.spots, q.freeFit crowded spot = false) ∧ ∀ spot ∈ q.spots, q.qualifies crowded spot = false) ∧
    (let q : Query := { urgent with prio := .priority, preemptOn := true };
      ∀ spot ∈ q.spots, q.freeFit crowded spot = false) ∧
    (let a := urgent.spots.take 20
     let b := urgent.spots.drop 21
     urgent.spots = a ++ ⟨1, 7⟩ :: b ∧ urgent.qualifies crowded ⟨1, 7⟩ = true ∧
     (∀ x ∈ a, urgent.qualifies crowded x = true →
       (urgent.victims crowded ⟨1, 7⟩).length < (urgent.victims crowded x).length) ∧
     (∀ x ∈ b, urgent.qualifies crowded x = true →
       (urgent.victims crowded ⟨1, 7⟩).length ≤ (urgent.victims crowded x).length)) ∧
    urgent.search crowded = some (⟨1, 7⟩, [33]) := by
  refine ⟨by decide +kernel, ?_, by decide +kernel, by decide +kernel, by decide +kernel, by decide +kernel⟩
  intro p h
  rcases h with rfl | rfl | rfl <;> decide +kernel

theorem test_meets_UnknownGrantIsRefused :
    (let s := ask busy (.sector 0) 0x14 [95];
      s.serving (.sector 0) .renew (asked 0x14 [95]) [] ∧ parseGrantId [95] = some 95 ∧
      s.items.sectorsEnabled.getLsbD 0 = true ∧ ∀ g, Table.get? s.eng.grants 95 = some g → g.owner ≠ 0) ∧
    (let s := ask busy (.sector 0) 0x20 [0];
      s.serving (.sector 0) .grantQuery (asked 0x20 [0]) [] ∧ parseGrantId [0] = some 0 ∧
      ∀ g, Table.get? s.eng.grants 0 = some g → g.owner ≠ 0) ∧
    (let s := ask busy .site 0x39 [95];
      s.serving .site .forceRelease (asked 0x39 [95]) [] ∧ Table.get? s.eng.grants 95 = none) := by
  exact ⟨⟨by decide +kernel, by decide, by decide, every (by decide +kernel)⟩,
    ⟨by decide +kernel, by decide, every (by decide +kernel)⟩, by decide +kernel⟩

theorem test_meets_RenewAndReleaseOnAir :
    (let s := ask busy (.sector 1) 0x14 [0];
      s.serving (.sector 1) .renew (asked 0x14 [0]) [] ∧ s.items.sectorsEnabled.getLsbD 1 = true ∧
      Table.get? s.eng.grants 0 = some onAir ∧ onAir.owner = 1 ∧ onAir.mode = .persistent ∧ onAir.state = .active) ∧
    (let s := ask busy (.sector 1) 0x14 [1];
      s.serving (.sector 1) .renew (asked 0x14 [1]) [] ∧ Table.get? s.eng.grants 1 = some waiting ∧
      waiting.owner = 1 ∧ waiting.mode = .oneShot) ∧
    (let s := ask busy (.sector 1) 0x15 [0];
      s.serving (.sector 1) .release (asked 0x15 [0]) [] ∧ Table.get? s.eng.grants 0 = some onAir) ∧
    (let s := ask busy (.sector 0) 0x15 [4];
      s.serving (.sector 0) .release (asked 0x15 [4]) [] ∧
      (Table.get? s.eng.grants 4).map (·.state.isWithdrawn) = some true) := by decide +kernel

theorem test_meets_ReleaseOfWaitingGrantClosesChain :
    (let s := ask busy (.sector 1) 0x15 [1];
      s.serving (.sector 1) .release (asked 0x15 [1]) [] ∧ parseGrantId [1] = some 1 ∧
      s.items.sectorsEnabled.getLsbD 1 = true ∧ Table.get? s.eng.grants 1 = some waiting ∧ waiting.owner = 1 ∧
      waiting.state = .pending ∧ s.eng.load - waiting.cost ≤ s.eng.ceiling ∧
      ∀ x, Table.get? s.eng.subs waiting.sub = some x → x.state ≠ .detaching) ∧
    (let s := ask filled (.sector 0) 0x15 [2];
      s.serving (.sector 0) .release (asked 0x15 [2]) [] ∧
      ((Table.get? s.eng.grants 2).map (fun g => (g.owner, g.state, g.pred, g.succ))) =
        some (0, .chained, some 1, some 3) ∧
      ∀ x, Table.get? s.eng.subs 2 = some x → x.state ≠ .detaching) := by
  exact ⟨⟨by decide +kernel, by decide, by decide, by decide +kernel, by decide, by decide, by decide +kernel,
    every (by decide +kernel)⟩, by decide +kernel, by decide +kernel, every (by decide +kernel)⟩

/-- A release after which the load is above the ceiling and a candidate is counted. -/
theorem test_meets_ReleaseOfWaitingGrantClosesChain_with_a_pass :
    let s := ask lifted (.sector 0) 0x15 [1]
    let g : Grant := { plain .chained 0 2 0 2 0b0001#4 with prio := .emergency, cost := 40, pred := some 0 }
    laws s.eng ∧ s.serving (.sector 0) .release (asked 0x15 [1]) [] ∧ parseGrantId [1] = some 1 ∧
    Table.get? s.eng.grants 1 = some g ∧ g.owner = 0 ∧ s.eng.ceiling < s.eng.load - g.cost ∧
    (Table.get? s.eng.grants 0).map (fun y => (y.state.counted, y.prio, y.succ)) = some (true, .standard, some 1) := by
  exact ⟨lifted_laws, by decide +kernel, by decide, by decide +kernel, by decide, by decide +kernel,
    by decide +kernel⟩

theorem test_meets_QueriesAnswerFromTheTables :
    (let s := ask busy (.sector 1) 0x20 [0];
      s.serving (.sector 1) .grantQuery (asked 0x20 [0]) [] ∧ Table.get? s.eng.grants 0 = some onAir ∧
      (PortId.sector 1) = .sector onAir.owner) ∧
    (let s := ask busy (.sector 0) 0x21 [2];
      s.serving (.sector 0) .subscriberQuery (asked 0x21 [2]) [] ∧ (Table.get? s.eng.subs 2).map (·.home) = some 0) ∧
    (let s := ask busy (.sector 0) 0x21 [255];
      s.serving (.sector 0) .subscriberQuery (asked 0x21 [255]) [] ∧ parseHandle [255] = some 255 ∧
      ∀ x, Table.get? s.eng.subs 255 = some x → PortId.sector 0 ≠ .site ∧ PortId.sector 0 ≠ .sector x.home) ∧
    (let s := ask busy .site 0x22 [1, 7, 3];
      s.serving .site .scheduleQuery (asked 0x22 [1, 7, 3]) [] ∧
      parseSchedule .site [1, 7, 3] = some (.ul, 7, 3)) ∧
    (let s := ask busy (.sector 2) 0x22 [0, 0];
      s.serving (.sector 2) .scheduleQuery (asked 0x22 [0, 0]) [] ∧
      parseSchedule (.sector 2) [0, 0] = some (.dl, 0, 2)) := by
  exact ⟨by decide +kernel, by decide +kernel, ⟨by decide +kernel, by decide, every (by decide +kernel)⟩,
    by decide +kernel, by decide +kernel⟩

theorem test_meets_ForceReleaseOfOneGrant :
    (let s := ask busy .site 0x39 [4];
      s.serving .site .forceRelease (asked 0x39 [4]) [] ∧
      (Table.get? s.eng.grants 4).map (·.state.isWithdrawn) = some true) ∧
    (let s := ask busy .site 0x39 [0];
      s.serving .site .forceRelease (asked 0x39 [0]) [] ∧ Table.get? s.eng.grants 0 = some onAir ∧
      onAir.succ = none ∧ onAir.state = .active ∧ s.eng.load - onAir.cost ≤ s.eng.ceiling) ∧
    (let s := ask busy .site 0x39 [1];
      s.serving .site .forceRelease (asked 0x39 [1]) [] ∧ Table.get? s.eng.grants 1 = some waiting ∧
      waiting.succ = none ∧ waiting.state = .pending ∧ s.eng.load - waiting.cost ≤ s.eng.ceiling ∧
      ∀ x, Table.get? s.eng.subs waiting.sub = some x → x.state ≠ .detaching) := by
  exact ⟨by decide +kernel, by decide +kernel, by decide +kernel, by decide +kernel, by decide, by decide,
    by decide +kernel, every (by decide +kernel)⟩

theorem test_meets_ForcedEndBreaksTheChain :
    let s := ask filled .site 0x39 [1]
    let g : Grant := { plain .chained 0 2 0 2 0b0001#4 with pred := some 0, succ := some 2 }
    s.serving .site .forceRelease (asked 0x39 [1]) [] ∧ parseGrantId [1] = some 1 ∧
    Table.get? s.eng.grants 1 = some g ∧ g.state.isWithdrawn = false ∧
    (∀ p, g.pred = some p → p ∉ chainDown s.eng.grants s.eng.grants.length g.succ) ∧
    chainDown s.eng.grants s.eng.grants.length g.succ = [2, 3] := by
  exact ⟨by decide +kernel, by decide, by decide +kernel, by decide, every (by decide +kernel), by decide +kernel⟩

/-- A forced end among grants that stay: the predecessor of the named grant, and one of another subscriber. -/
theorem test_meets_ForcedEndBreaksTheChain_among_others :
    let s := ask busy .site 0x39 [3]
    let g : Grant := { plain .chained 0 2 0 2 0b0001#4 with pred := some 2 }
    laws s.eng ∧ s.serving .site .forceRelease (asked 0x39 [3]) [] ∧ Table.get? s.eng.grants 3 = some g ∧
    g.state.isWithdrawn = false ∧ (∀ p, g.pred = some p → p ∉ chainDown s.eng.grants s.eng.grants.length g.succ) ∧
    s.eng.load ≤ s.eng.ceiling ∧ Table.get? s.eng.grants 0 = some onAir ∧
    2 ∉ chainDown s.eng.grants s.eng.grants.length (some 3) ∧
    0 ∉ chainDown s.eng.grants s.eng.grants.length (some 3) ∧
    shows (exec (.forceRelease ⟨.site, []⟩) s) (fun t => Table.get? t.eng.grants 0 == some onAir &&
      Table.get? t.eng.grants 2 == some (plain .active 0 2 0 1 0b0001#4)) = true := by
  exact ⟨busy_laws, by decide +kernel, by decide +kernel, by decide, every (by decide +kernel), by decide +kernel,
    by decide +kernel, by decide +kernel, by decide +kernel, by decide +kernel⟩

/-- FORCE over one slot of carrier 0: grants 0 and 3 hold it, 2 loses its link to 3, and 1 stays as it is. -/
theorem test_meets_BlockTiles_among_others :
    let s := ask busy .site 0x35 [0, 0, 2, 1, 1, 1]
    laws s.eng ∧ s.serving .site .blockTiles (asked 0x35 [0, 0, 2, 1, 1, 1]) [] ∧
    parseBlock [0, 0, 2, 1, 1, 1] = some ⟨.dl, 0, 2, 1, true, .force⟩ ∧ s.eng.load ≤ s.eng.ceiling ∧
    s.eng.blockVictims ⟨.dl, 0, 2, 1, true, .force⟩ = [0, 3] ∧
    (∀ i ∈ [0, 3], 1 ∉ chainDown s.eng.grants s.eng.grants.length (some i) ∧
      2 ∉ chainDown s.eng.grants s.eng.grants.length (some i)) ∧
    shows (exec (.blockTiles ⟨.site, []⟩) s) (fun t => Table.get? t.eng.grants 1 == some waiting &&
      Table.get? t.eng.grants 2 == some (plain .active 0 2 0 1 0b0001#4)) = true :=
  ⟨busy_laws, by decide +kernel, by decide, by decide +kernel, by decide +kernel, by decide +kernel,
    by decide +kernel⟩

theorem test_meets_BlockTiles :
    (let s := ask busy .site 0x35 [0, 0, 1, 1, 0, 0];
      s.serving .site .blockTiles (asked 0x35 [0, 0, 1, 1, 0, 0]) [] ∧
      parseBlock [0, 0, 1, 1, 0, 0] = some ⟨.dl, 0, 1, 1, false, .gentle⟩) ∧
    (let s := ask site .site 0x35 [0, 0, 1, 15, 1, 0];
      s.serving .site .blockTiles (asked 0x35 [0, 0, 1, 15, 1, 0]) [] ∧
      parseBlock [0, 0, 1, 15, 1, 0] = some ⟨.dl, 0, 1, 15, true, .gentle⟩ ∧
      ∀ slot n i, ¬ ((1 ≤ slot ∧ slot < 1 + 15) ∧
        ∃ h, s.eng.holder .dl 0 slot n = some h ∧ h.grant = i ∧ s.eng.withdrawnGrant i = false)) ∧
    (let s := ask busy .site 0x35 [0, 0, 1, 15, 1, 0];
      s.serving .site .blockTiles (asked 0x35 [0, 0, 1, 15, 1, 0]) [] ∧
      s.eng.holder .dl 0 1 0 = some ⟨2, .body⟩ ∧ s.eng.withdrawnGrant 2 = false ∧
      ∀ (slot' : Nat) (n' : Sector), slot' < 1 ∨ (slot' = 1 ∧ n' < 0) → ¬ (1 ≤ slot' ∧ slot' < 1 + 15)) ∧
    (let s := ask busy .site 0x35 [0, 0, 15, 1, 1, 1];
      s.serving .site .blockTiles (asked 0x35 [0, 0, 15, 1, 1, 1]) [] ∧
      parseBlock [0, 0, 15, 1, 1, 1] = some ⟨.dl, 0, 15, 1, true, .force⟩) := by
  refine ⟨by decide +kernel, ⟨by decide +kernel, by decide, ?_⟩, ⟨by decide +kernel, by decide +kernel,
    by decide +kernel, ?_⟩, by decide +kernel⟩
  · rintro slot n i ⟨_, h, hh, _⟩
    have : (none : Option Holder) = some h := hh
    cases this
  · rintro slot n (h | ⟨_, h⟩)
    · omega
    · exact absurd h (Fin.not_lt_zero _)

theorem test_meets_BoundaryRetiresAndKeys :
    (due busy).nextItem = some .boundary ∧ (due busy).op ≠ .draining ∧
    (∀ x ∈ (due busy).eng.grants, x.2.state.isWithdrawn = true → x.1 ∈ (due busy).eng.admission) ∧
    laws (due busy).eng := ⟨by decide +kernel, by decide +kernel, by decide +kernel, busy_laws⟩

/-- A DETACHING record whose one grant is WITHDRAWN. -/
def parting : State :=
  due { site with eng := { (put 4 (plain (.withdrawn .detached) 0 2 1 1 0b0001#4)
    { site.eng with subs := Table.upd site.eng.subs 2 (fun y => { y with state := .detaching }) }) with
      tagMap := [(0xA0, 0), (0xA1, 1)] } }

/-- R110: the record of a DETACHING subscriber is FREE after the boundary that retires its grants. -/
theorem test_meets_BoundaryRetiresAndKeys_of_a_detaching_record :
    laws parting.eng ∧ parting.nextItem = some .boundary ∧ parting.op ≠ .draining ∧
    (Table.get? parting.eng.subs 2).map (fun x => (x.state, x.grants)) = some (.detaching, [4]) ∧
    shows (exec .boundaryProcessing parting) (fun t => Table.get? t.eng.subs 2 == none) = true :=
  ⟨laws_of (by decide +kernel) (by decide +kernel) (by decide +kernel) (by decide +kernel),
    by decide +kernel, by decide, by decide +kernel, by decide +kernel⟩

/-- R79: with two boundaries pending, the first one's notice carries the number before the second's. -/
theorem test_boundaryProcessing_carries_its_own_frame :
    shows (exec .boundaryProcessing { busy with
        arb := { busy.arb with pendingBoundaries := 2 }
        eng := { busy.eng with changes := [⟨1, .activate, 1, false⟩, ⟨3, .activate, 2, true⟩] } }) (fun t =>
      t.timer.frameCounter == 41 && (t.port (.sector 1)).oq == [.notice (.grantActive 1 40)]) = true := by
  decide +kernel

/-- The site with one grant on air. -/
def alone (g : Grant) : State := due { site with eng := put 0 g site.eng }

theorem test_meets_OnAirGrantsAreCounted :
    (∀ g ∈ [{ plain .active 1 0 0 1 0b0010#4 with remaining := 1 },
        { plain .releasing 1 0 0 1 0b0010#4 with remaining := 1 },
        { onAir with remaining := 1, renewRequired := true }, { onAir with remaining := 1, stale := true },
        { onAir with remaining := 1 }, { onAir with remaining := 2 }],
      (alone g).nextItem = some .boundary ∧ Table.get? (alone g).eng.grants 0 = some g ∧
      0 ∈ (alone g).eng.admission ∧ (g.state = .active ∨ g.state = .releasing) ∧
      (alone g).eng.admission.Nodup ∧ (∀ x ∈ (alone g).eng.changes, x.id ≠ 0) ∧
      ∀ x ∈ (alone g).eng.grants, x.2.succ ≠ some 0) := by decide +kernel

/-- The waiting grant with an entry of some wait, HOLD and flush as said. -/
def queued (hold flush : Bool) (prio : Priority) (wait : Nat) : State :=
  due { site with eng := { put 0 { waiting with prio := prio } site.eng with
    hold := hold, flush := flush, changes := [⟨0, .activate, wait, false⟩] } }

theorem test_meets_MatureEntriesActivate :
    ∀ x ∈ [(false, true, Priority.standard, 2), (false, false, .standard, 1), (true, false, .emergency, 1),
        (true, false, .standard, 0), (false, false, .standard, 2)],
      let s := queued x.1 x.2.1 x.2.2.1 x.2.2.2
      let g := { waiting with prio := x.2.2.1 }
      s.nextItem = some .boundary ∧ Table.get? s.eng.grants 0 = some g ∧ g.state = .pending ∧
      (⟨0, .activate, x.2.2.2, false⟩ : Entry) ∈ s.eng.changes ∧
      (∀ y ∈ s.eng.changes, y.id = 0 → y = ⟨0, .activate, x.2.2.2, false⟩) ∧
      (∀ y ∈ s.eng.grants, y.2.succ ≠ some 0) := by decide +kernel

/-- A RELEASING grant with a CHAINED successor, under HOLD or not. -/
def leaving (hold : Bool) (wait remaining : Nat) : State :=
  due { site with eng := { (put 3 { plain .chained 0 2 0 2 0b0001#4 with pred := some 2 }
    (put 2 { plain .releasing 0 2 0 1 0b0001#4 with succ := some 3, remaining := remaining } site.eng)) with
      hold := hold, changes := [⟨2, .retire, 1, false⟩, ⟨3, .activate, wait, true⟩] } }

theorem leaving_laws : ∀ x ∈ [(false, 1, 20), (false, 2, 20), (true, 1, 20), (true, 1, 1)],
    laws (leaving x.1 x.2.1 x.2.2).eng := by
  have h : ∀ x ∈ [(false, 1, 20), (false, 2, 20), (true, 1, 20), (true, 1, 1)],
      let e := (leaving x.1 x.2.1 x.2.2).eng
      linked e = true ∧
      (Table.wf e.cells ∧ Table.wf e.blocked ∧ Table.wf e.grants ∧ Table.wf e.subs ∧ Table.wf e.tagMap) ∧
      ((∀ i ∈ e.admission, Table.has e.grants i = true) ∧ (∀ x ∈ e.grants, x.1 ∈ e.admission) ∧
        ∀ x ∈ e.changes, Table.has e.grants x.id = true) ∧
      e.load = e.sumCosts (fun _ => true) ∧ e.emergencyLoad = e.sumCosts (fun g => decide (g.prio = .emergency)) := by
    decide +kernel
  intro x hx
  obtain ⟨h1, h2, h3, h4⟩ := h x hx
  exact laws_of h1 h2 h3 h4

theorem test_meets_MatureEntriesActivate_at_an_end :
    ∀ x ∈ [(false, 1, 20), (false, 2, 20), (true, 1, 20), (true, 1, 1)],
      let s := leaving x.1 x.2.1 x.2.2
      s.nextItem = some .boundary ∧
      (Table.get? s.eng.grants 2).map (fun g => (g.state, g.succ, g.countEnd)) =
        some (.releasing, some 3, if x.2.2 = 1 then some .expired else none) ∧
      (Table.get? s.eng.grants 3).isSome = true ∧ (⟨2, .retire, 1, false⟩ : Entry) ∈ s.eng.changes ∧
      (⟨3, .activate, x.2.1, true⟩ : Entry) ∈ s.eng.changes := by decide +kernel

/-- A RELEASING grant under HOLD at the end of its round. -/
def resting : State :=
  due { site with eng := { (put 0 { onAir with state := .releasing, remaining := 1 } site.eng) with
    hold := true, changes := [⟨0, .retire, 1, false⟩] } }

/-- RELEASING grants that stay: one loses a frame, one begins a new round. -/
theorem test_meets_OnAirGrantsAreCounted_while_releasing :
    (laws (leaving true 1 20).eng ∧ shows (exec .boundaryProcessing (leaving true 1 20)) (fun t =>
      (Table.get? t.eng.grants 2).map (fun g => (g.state, g.remaining)) == some (.releasing, 19)) = true) ∧
    laws resting.eng ∧ resting.nextItem = some .boundary ∧ shows (exec .boundaryProcessing resting) (fun t =>
      Table.get? t.eng.grants 0 == some { onAir with state := .releasing }) = true :=
  ⟨⟨leaving_laws (true, 1, 20) (by decide), by decide +kernel⟩,
    laws_of (by decide +kernel) (by decide +kernel) (by decide +kernel) (by decide +kernel),
    by decide +kernel, by decide +kernel⟩

theorem test_meets_HoldAndFlush :
    (ask busy .site 0x37 []).serving .site .hold (asked 0x37 []) [] ∧
    (ask State.reset .site 0x37 []).serving .site .hold (asked 0x37 []) [] ∧ State.reset.op ≠ .running ∧
    (ask busy .site 0x38 []).serving .site .unhold (asked 0x38 []) [] ∧
    (owes { busy with eng := { busy.eng with hold := true } } .siteAbsence).nextItem =
      some (.internal .siteAbsence) := by decide +kernel

/-- A part that drains, with one WITHDRAWN grant left. -/
def draining : State :=
  { site with op := .draining, eng := put 4 (plain (.withdrawn .shutdown) 0 2 1 1 0b0001#4) site.eng }

theorem test_meets_BoundaryCompletesTheDrain :
    ((due State.reset).nextItem = some .boundary ∧ (due State.reset).op = .standby ∧
      (due State.reset).eng.grants = [] ∧ (due State.reset).eng.changes = [] ∧
      (due State.reset).keying.airMap = emptyAirMap) ∧
    (due draining).nextItem = some .boundary ∧ (due draining).op = .draining ∧
    ∀ x ∈ (due draining).eng.grants, x.2.state.isWithdrawn = true ∧ x.1 ∈ (due draining).eng.admission := by
  decide +kernel

theorem test_meets_SetCeilingSheds :
    (ask busy .site 0x36 [0, 24]).serving .site .setCeiling (asked 0x36 [0, 24]) [] ∧
    parseCeiling [0, 24] = some 24 ∧ parseCeiling [0x0F, 0xFF] = some 4095 ∧ ¬ busy.eng.load ≤ 24 ∧
    (ask busy .site 0x36 [0, 32]).serving .site .setCeiling (asked 0x36 [0, 32]) [] ∧ busy.eng.load ≤ 32 ∧
    24 ≠ busy.eng.ceiling ∧ (∃ i ∈ busy.eng.admission, busy.eng.isCandidate i = true) := by
  decide +kernel

theorem test_meets_NextVictimIsLowestThenNewest :
    busy.eng.nextShed = some 3 ∧ site.eng.nextShed = none ∧
    (Work.of busy.eng).eng.load ≤ (Work.of busy.eng).eng.ceiling ∧
    (Work.of { busy.eng with ceiling := 31 }).eng.ceiling < (Work.of { busy.eng with ceiling := 31 }).eng.load ∧
    (Work.of { busy.eng with ceiling := 31 }).eng.nextShed = some 3 := by decide +kernel

theorem test_meets_NoPassEndsAnEmergencyGrant :
    (Table.get? (Work.of { crowded with ceiling := 0 }).eng.grants 32).map (·.prio) = some .emergency ∧
    shows (exec (.setCeiling ⟨.site, []⟩) (ask { site with eng := crowded } .site 0x36 [0, 0])) (fun t =>
      t.eng.load == 24) = true := by decide +kernel

theorem test_meets_LoadQueryAnswers :
    (ask busy .site 0x40 []).serving .site .loadQuery (asked 0x40 []) [] ∧
    (ask busy .site 0x40 [0]).serving .site .loadQuery (asked 0x40 [0]) [] ∧
    (ask busy (.sector 3) 0x40 []).serving (.sector 3) .loadQuery (asked 0x40 []) [] := by decide +kernel

/-- Every subscriber record in use. -/
def crowdedDirectory : State :=
  { site with eng := { site.eng with
      subs := (List.range 256).map (fun h => (h, member (BitVec.ofNat 32 (h + 1000)) 0 0))
      tagMap := (List.range 256).map (fun h => (h + 1000, h)) } }

theorem test_meets_AttachOfANewTag :
    (let s := ask State.reset (.sector 0) 0x10 [0, 0, 0, 1, 0];
      s.serving (.sector 0) .attach (asked 0x10 [0, 0, 0, 1, 0]) [] ∧ parseAttach [0, 0, 0, 1, 0] = some (1, 0) ∧
      s.op ≠ .running) ∧
    ((ask site (.sector 3) 0x10 [0, 0, 0, 1, 7]).serving (.sector 3) .attach (asked 0x10 [0, 0, 0, 1, 7]) [] ∧
      site.items.sectorsEnabled.getLsbD 3 = false) ∧
    ((ask site (.sector 1) 0x10 [0, 0, 0, 0xA1, 7]).serving (.sector 1) .attach (asked 0x10 [0, 0, 0, 0xA1, 7]) [] ∧
      Table.get? site.eng.tagMap 0xA1 = some 1 ∧ Table.get? site.eng.subs 1 = some (member 0xA1 1 6)) ∧
    ((ask site (.sector 1) 0x10 [0, 0, 0, 1, 7]).serving (.sector 1) .attach (asked 0x10 [0, 0, 0, 1, 7]) [] ∧
      Table.get? site.eng.tagMap 1 = none ∧ Table.get? site.eng.subs 3 = none ∧
      ∀ j, j < 3 → Table.get? site.eng.subs j ≠ none) ∧
    ((ask crowdedDirectory (.sector 1) 0x10 [0, 0, 0, 1, 7]).serving (.sector 1) .attach
        (asked 0x10 [0, 0, 0, 1, 7]) [] ∧
      Table.get? crowdedDirectory.eng.tagMap 1 = none ∧
      ∀ j, j < 256 → Table.get? crowdedDirectory.eng.subs j ≠ none) := by decide +kernel

theorem test_meets_AttachFromAnotherSectorHandsOver :
    (let s := ask busy (.sector 2) 0x10 [0, 0, 0, 0xA2, 4];
      s.serving (.sector 2) .attach (asked 0x10 [0, 0, 0, 0xA2, 4]) [] ∧
      parseAttach [0, 0, 0, 0xA2, 4] = some (0xA2, 4) ∧ s.op = .running ∧
      s.items.sectorsEnabled.getLsbD 2 = true ∧ Table.get? s.eng.tagMap 0xA2 = some 2 ∧
      (Table.get? s.eng.subs 2).map (fun x => (x.home, x.state)) = some (0, .attached)) ∧
    (Table.get? (ask site (.sector 2) 0x10 [0, 0, 0, 0xA2, 4]).eng.subs 2).map (·.grants) = some [] := by
  decide +kernel

theorem test_meets_DetachEndsTheSubscriber :
    (let s := ask busy (.sector 1) 0x11 [2];
      s.serving (.sector 1) .detach (asked 0x11 [2]) [] ∧ parseHandle [2] = some 2 ∧
      s.items.sectorsEnabled.getLsbD 1 = true ∧
      ∀ y, Table.get? s.eng.subs 2 = some y → y.state = .detaching ∨ y.home ≠ 1) ∧
    (let s := ask busy (.sector 1) 0x11 [0];
      s.serving (.sector 1) .detach (asked 0x11 [0]) [] ∧
      Table.get? s.eng.subs 0 = some { member 0xA0 1 2 with grants := [0] }) ∧
    Table.get? site.eng.subs 0 = some (member 0xA0 1 2) := by
  exact ⟨⟨by decide +kernel, by decide, by decide, every (by decide +kernel)⟩, by decide +kernel, by decide +kernel⟩

/-- A subscriber of the site with a standing and a run. -/
def standingAt (st : SubState) (run : Nat) : State :=
  { site with eng := { site.eng with
      subs := Table.upd site.eng.subs 0 (fun y => { y with state := st, run := run }) } }

theorem test_meets_LinkReportUpdatesTheRecord_of_no_record :
    let s := ask busy (.sector 1) 0x12 [2, 7, 15]
    s.serving (.sector 1) .linkReport (asked 0x12 [2, 7, 15]) [] ∧ parseLinkReport [2, 7, 15] = some (2, 7, 15) ∧
    s.items.sectorsEnabled.getLsbD 1 = true ∧
    ∀ y, Table.get? s.eng.subs 2 = some y → y.state = .detaching ∨ y.home ≠ 1 :=
  ⟨by decide +kernel, by decide, by decide, every (by decide +kernel)⟩

/-- One witness for each row of R113, at the quality floor of 4. -/
theorem test_meets_LinkReportUpdatesTheRecord :
    ∀ x ∈ [(SubState.attached, 0, (4 : Byte)), (.attached, 1, 3), (.attached, 2, 3), (.suspect, 2, 3),
        (.suspect, 1, 4), (.suspect, 2, 4)],
      let s := ask (standingAt x.1 x.2.1) (.sector 1) 0x12 [0, 7, x.2.2]
      s.serving (.sector 1) .linkReport (asked 0x12 [0, 7, x.2.2]) [] ∧
      (parseLinkReport [0, 7, x.2.2]).isSome = true ∧ s.items.sectorsEnabled.getLsbD 1 = true ∧
      Table.get? s.eng.subs 0 = some { member 0xA0 1 2 with state := x.1, run := x.2.1 } ∧
      s.items.qualityFloor = 4 := by decide +kernel

/-- The busy site has the site's subscribers and tags, its lists apart. -/
theorem busy_tags : busy.eng.tagsLawful := by
  intro tag h
  have hget : ∀ (k : Nat), Table.get? busy.eng.tagMap k =
      if 0xA0 = k then some 0 else if 0xA1 = k then some 1 else if 0xA2 = k then some 2 else none := fun k => rfl
  have hsub : ∀ (k : Nat), Table.get? busy.eng.subs k =
      if 0 = k then some { member 0xA0 1 2 with grants := [0] }
      else if 1 = k then some { member 0xA1 1 6 with grants := [1] }
      else if 2 = k then some { member 0xA2 0 1 with grants := [2, 3, 4] } else none := fun k => rfl
  rw [hget, hsub]
  constructor
  · intro hh
    split at hh
    · cases hh; subst tag; exact ⟨_, rfl, by decide, by decide⟩
    · split at hh
      · cases hh; subst tag; exact ⟨_, rfl, by decide, by decide⟩
      · split at hh
        · cases hh; subst tag; exact ⟨_, rfl, by decide, by decide⟩
        · cases hh
  · rintro ⟨x, hx, _, ht⟩
    split at hx
    · cases hx; subst h; subst ht; rfl
    · split at hx
      · cases hx; subst h; subst ht; rfl
      · split at hx
        · cases hx; subst h; subst ht; rfl
        · cases hx

/-- A detach of sector 1 meets a grant that stays and one that does not, and leaves sector 0's record. -/
theorem test_meets_AbsenceItemDetachesTheSector :
    laws busy.eng ∧ busy.eng.tagsLawful ∧
    (busy.eng.staying [0] = [0] ∧ busy.eng.staying [1] = [] ∧
      (Table.get? busy.eng.subs 2).map (·.servedIn 1) = some false) ∧
    (owes busy (.sectorDetach 1)).nextItem = some (.internal (.sectorDetach 1)) ∧
    Table.wf (owes busy (.sectorDetach 1)).eng.subs :=
  ⟨busy_laws, busy_tags, by decide +kernel, by decide +kernel, by decide +kernel⟩

theorem test_meets_SectorRebootAndReset :
    (ask busy (.sector 1) 0x17 []).serving (.sector 1) .sectorReboot (asked 0x17 []) [] ∧
    (ask busy .site 0x3A [3]).serving .site .sectorReset (asked 0x3A [3]) [] ∧ parseSector [3] = some 3 ∧
    Table.wf busy.eng.subs ∧ (busy.eng.subs.filter (fun x => x.2.servedIn 1)).length < 256 := by decide +kernel

theorem test_meets_ClassWrite :
    (ask site (.sector 0) 0x3D []).serving (.sector 0) .classWrite (asked 0x3D []) [] ∧
    (ask site .site 0x3D [16, 0, 0]).serving .site .classWrite (asked 0x3D [16, 0, 0]) [] ∧
    16 ≤ (16 : Byte).toNat ∧
    (ask site .site 0x3D [0, 24, 0]).serving .site .classWrite (asked 0x3D [0, 24, 0]) [] ∧
    24 ≤ (24 : Byte).toNat ∧
    ((ask site .site 0x3D [15, 23, 1]).serving .site .classWrite (asked 0x3D [15, 23, 1]) [] ∧
      (15 : Byte) = byteOf (15 : Fin 16).val ∧ (23 : Byte) = byteOf (23 : Fin 24).val ∧ (1 : Byte) = yesNoByte true ∧
      site.classes[15].enabled = false) ∧
    ((ask site .site 0x3D [5, 5, 0]).serving .site .classWrite (asked 0x3D [5, 5, 0]) [] ∧
      site.classes[5].enabled = true ∧ site.classes[5].template = 5) ∧
    ((ask site .site 0x3D [5, 2, 0]).serving .site .classWrite (asked 0x3D [5, 2, 0]) [] ∧
      site.classes[5].template ≠ 2) := by decide +kernel

theorem test_meets_TemplateWrite :
    (ask site (.sector 0) 0x3B []).serving (.sector 0) .templateWrite (asked 0x3B []) [] ∧
    (∀ l ∈ ([[24, 0, 1, 0, 1, 0, 0, 1, 0], [0, 2, 1, 0, 1, 0, 0, 1, 0], [0, 0, 1, 2, 1, 0, 0, 1, 0],
        [0, 0, 1, 0, 0, 0, 0, 1, 0], [0, 0, 1, 0, 9, 0, 0, 1, 0], [0, 0, 1, 0, 1, 4, 0, 1, 0],
        [0, 0, 1, 0, 1, 0, 3, 1, 0], [0, 0, 1, 0, 1, 0, 0, 0, 0]] : List (List Byte)),
      (ask site .site 0x3B l).serving .site .templateWrite (asked 0x3B l) [] ∧ parseTemplateWrite l = none) ∧
    ((ask site .site 0x3B [23, 1, 0, 1, 8, 3, 2, 1, 3]).serving .site .templateWrite
        (asked 0x3B [23, 1, 0, 1, 8, 3, 2, 1, 3]) [] ∧
      parseTemplateWrite [23, 1, 0, 1, 8, 3, 2, 1, 3] =
        some (23, ⟨.persistent, 256, .nearest, 8, .emergency, .either, 0x01#8, true, true⟩) ∧
      ∀ c : Fin 16, ¬ (site.classes[c].enabled = true ∧ site.classes[c].template = 23)) ∧
    ((ask site .site 0x3B [5, 0, 1, 0, 1, 0, 0, 1, 0]).serving .site .templateWrite
        (asked 0x3B [5, 0, 1, 0, 1, 0, 0, 1, 0]) [] ∧
      site.classes[5].enabled = true ∧ site.classes[5].template = 5 ∧
      ∀ k : Fin 16, k < 5 → ¬ (site.classes[k].enabled = true ∧ site.classes[k].template = 5)) := by decide +kernel

theorem test_meets_TemplateReadAnswers :
    (ask site .site 0x3C [23]).serving .site .templateRead (asked 0x3C [23]) [] ∧
    parseTemplateIndex [23] = some 23 ∧ 1 ≤ site.templates[23].roundLength ∧ site.templates[23].roundLength ≤ 256 ∧
    1 ≤ site.templates[23].maxSlots ∧ site.templates[23].maxSlots ≤ 8 ∧ site.templates[23].carriers ≠ 0 := by
  decide +kernel

theorem test_meets_PeriodExpiries :
    site.timer.state = .freeRun ∧ (timed site .locking 31).timer.state = .locking ∧
    (timed site .locked 0).timer.state = .locked ∧ (timed site .holdover 65535).timer.state = .holdover := by
  decide +kernel

/-- The windows of R138 and R141 at P = 10000 and T = 50: every boundary value falls under one clause. -/
theorem test_meets_PulsesByStateAndWindow :
    State.reset.timer.state = .stopped ∧ (timed site .locking 0).timer.state = .locking ∧
    (timed site .holdover 1).timer.state = .holdover ∧ (timed site .locked 0).timer.state = .locked ∧
    4 * site.items.syncTolerance < site.items.framePeriod ∧
    50 ≤ site.items.syncTolerance ∧ (site.items.syncTolerance < 51 ∧ 2 * 4999 < site.items.framePeriod) ∧
    (site.items.framePeriod ≤ 2 * 5000 ∧ 9949 + site.items.syncTolerance < site.items.framePeriod) ∧
    (site.items.framePeriod ≤ 9950 + site.items.syncTolerance ∧
      10050 ≤ site.items.framePeriod + site.items.syncTolerance) := by decide +kernel

theorem test_meets_SlotStartsAndFmark :
    site.timer.slot = some (4 - 1) ∧ site.timer.state ≠ .stopped ∧
    ({ site with timer := { site.timer with slot := some 14 } } : State).timer.slot = some (15 - 1) := by
  decide +kernel

theorem test_meets_TransactionBegins :
    ((open0 site).port (.sector 0)).txn.isSome = true ∧ (site.port .site).txn = none ∧ (site.port .site).oq = [] ∧
    (site.setPort .site { livePort with oq := [.response 1 .ok [2]] }).port .site =
      { livePort with oq := [.response 1 .ok [2]] } ∧
    (site.placeNotice 0 (.roundEnd 7)).port (.sector 0) = { livePort with oq := [.notice (.roundEnd 7)] } := by
  decide +kernel

/-- Ports with an open transaction, at the borders of room. -/
def opened (rq owed : Nat) (oq : List OutEntry) : State :=
  site.setPort (.sector 0) { livePort with
    rq := List.replicate rq calmAsk, owed := owed, oq := oq, noticeLost := true,
    txn := some ⟨List.replicate 8 0x01, !oq.isEmpty, true, false⟩ }

theorem test_meets_TransactionEndSettlesBothSides :
    (site.port (.sector 0)).txn = none ∧ ((opened 0 0 []).port (.sector 0)).txn.isSome = true ∧
    (8 ≤ (List.replicate 8 (0xFF : Byte)).length ∧ ¬ 8 ≤ (List.replicate 7 (0xFF : Byte)).length) ∧
    classify (withCrc [0x14, 0, 1, 3]) = .request ⟨0x14, 0, [3]⟩ ∧
    (((opened 7 7 (List.replicate 9 (.notice (.roundEnd 0)))).port (.sector 0)).rq.length < 8 ∧
      8 ≤ ((opened 8 8 []).port (.sector 0)).rq.length) ∧
    classify (List.replicate 8 0xFF) = .none ∧ classify (withCrc [0, 0, 0]) = .poll ∧
    classify [0x14, 0, 1, 3, 0, 0] = .crcBad ∧ classify [0x14, 0, 25] = .tooLong := by decide +kernel

/-- Open ports for each row of R157. -/
def ailing (h : Health) (bad good : Nat) : State :=
  site.setPort (.sector 0) { livePort with
    health := h, badRun := bad, goodRun := good, txn := some ⟨[0x01], false, false, false⟩ }

theorem test_meets_VerdictsMoveTheHealth :
    (∀ x ∈ [(Health.silent, 0, 0), (.present, 1, 0), (.present, 2, 0), (.alert, 3, 6), (.alert, 0, 7), (.absent, 3, 0)],
      ((ailing x.1 x.2.1 x.2.2).port (.sector 0)).txn.isSome = true ∧
      ((ailing x.1 x.2.1 x.2.2).port (.sector 0)).oq = []) ∧
    classify [] = .none ∧ classify (withCrc [0, 0, 0]) = .poll ∧ classify [0x10] = .crcBad ∧
    classify [0x10, 0, 255] = .tooLong := by decide +kernel

/-- SP ABSENT with an open transaction: a POLL brings it back, and its Outbound Queue stays empty (R161). -/
theorem test_meets_VerdictsMoveTheHealth_of_the_site_port :
    let s := site.setPort .site { Port.reset with health := .absent, txn := some ⟨[0x01], false, false, false⟩ }
    (s.port .site).txn.isSome = true ∧ (s.port .site).health = .absent ∧ classify (withCrc [0, 0, 0]) = .poll ∧
    shows (exec (.transactionEnd .site (withCrc [0, 0, 0])) s) (fun t =>
      (t.port .site).health == .present && (t.port .site).oq == []) = true := by decide +kernel

/-- One frame for each test of R150 that finds it bad, at the borders of length and CRC. -/
theorem test_meets_FramesAreReadBack_of_bad_frames :
    let head : List Byte := [0x14, 0x5A, byteOf [(3 : Byte)].length] ++ [3]
    (24 < (25 : Byte).toNat ∧ (24 : Byte).toNat ≤ 24 ∧ (List.replicate 25 (0 : Byte)).length < (24 : Byte).toNat + 2) ∧
    (∃ b ∈ [(0xFF : Byte), 0], b ≠ 0xFF) ∧ head ++ [0, 0] ≠ withCrc head ∧
    classify (withCrc head ++ [0xFF, 0]) = .tooLong ∧ classify (head ++ [0, 0] ++ [0xFF]) = .crcBad ∧
    classify ([0x14, 0x5A, 24] ++ List.replicate 25 0) = .crcBad ∧ classify [0x14, 0x5A] = .crcBad := by
  decide +kernel

theorem test_meets_FramesAreReadBack :
    (0x00 : Byte) ≠ 0xFF ∧ (0xFE : Byte) ≠ 0xFF ∧ (List.replicate 24 (0xFF : Byte)).length ≤ 24 ∧
    classify (withCrc ([0xFE, 0xFF, 24] ++ List.replicate 24 0xFF) ++ List.replicate 3 0xFF) =
      .request ⟨0xFE, 0xFF, List.replicate 24 0xFF⟩ := by decide +kernel

theorem test_meets_NoticesFollowTheEnableSet :
    (ask site (.sector 0) 0x16 [0xFF]).serving (.sector 0) .setNotices (asked 0x16 [0xFF]) [] ∧
    ((ailing .absent 0 0).port (.sector 0)).health = .absent ∧
    (site.setPort (.sector 0) { livePort with notices := 0 }).ports.s0.notices.getLsbD ((Notice.roundEnd 0).code - 1) =
      false ∧
    ((site.port (.sector 0)).health ≠ .absent ∧
      (site.port (.sector 0)).notices.getLsbD ((Notice.roundEnd 0).code - 1) = true ∧
      (site.port (.sector 0)).oq.length + (site.port (.sector 0)).owed < 16) ∧
    16 ≤ ((opened 8 8 (List.replicate 8 (.notice (.roundEnd 0)))).port (.sector 0)).oq.length +
      ((opened 8 8 (List.replicate 8 (.notice (.roundEnd 0)))).port (.sector 0)).owed := by decide +kernel

/-- The configuration with other enabled sets and tolerance. -/
def configured (sectors : SectorSet) (carriers : CarrierSet) (tolerance : Nat) : State :=
  ask { State.reset with items := { ConfigItems.default with
    framePeriod := 2000, sectorsEnabled := sectors, carriersEnabled := carriers, syncTolerance := tolerance } }
    .site 0x30 []

theorem test_meets_StartRunsThePart :
    (∀ s ∈ [ask site .site 0x30 [], configured 0 0 0, configured 1 0 0, configured 1 1 500, configured 1 1 499],
      s.serving .site .start (asked 0x30 []) []) ∧
    site.op ≠ .standby ∧ (configured 1 1 500).op = .standby ∧
    (configured 1 1 500).items.framePeriod ≤ 4 * (configured 1 1 500).items.syncTolerance ∧
    4 * (configured 1 1 499).items.syncTolerance < (configured 1 1 499).items.framePeriod := by decide +kernel

theorem test_meets_StandbyDrains :
    (∀ s ∈ [State.reset, draining, busy, site], (ask s .site 0x31 []).serving .site .standby (asked 0x31 []) []) ∧
    State.reset.op = .standby ∧ draining.op = .draining ∧ busy.op = .running ∧
    (Table.get? busy.eng.grants 4).map (·.state) = some (.withdrawn .forced) ∧ site.eng.grants = [] := by
  decide +kernel

/-- A STANDBY request at a site port whose keepalive count is one below its window. -/
def fading : State :=
  let s := ask site .site 0x31 []
  s.setPort .site { s.port .site with keepalive := 199 }

theorem expiry_makes_a_boundary {s : State} (h : s.timer.state = .freeRun) :
    BoundaryMade s (s.onTimer .freeRunPeriodExpiry) (s.timer.lastBoundary + s.items.framePeriod) := by
  have : s.onTimer .freeRunPeriodExpiry = s.makeBoundary (s.timer.lastBoundary + s.items.framePeriod) := by
    simp [State.onTimer, State.freeRunExpiry, h]
  rw [this]
  exact (State.makeBoundary_spec _ _).1

/-- A boundary while STANDBY executes, which SP outlives, and one that declares SP absent. -/
theorem test_meets_StandbyDrains_with_a_boundary :
    (laws (ask site .site 0x31 []).eng ∧ ¬ (ask site .site 0x31 []).losesPort .site) ∧
    fading.serving .site .standby (asked 0x31 []) [] ∧ fading.losesPort .site ∧
    BoundaryMade fading (fading.onTimer .freeRunPeriodExpiry)
      (fading.timer.lastBoundary + fading.items.framePeriod) := by
  refine ⟨⟨site_laws, ?_⟩, by decide +kernel, ?_, expiry_makes_a_boundary (by decide)⟩ <;>
    unfold State.losesPort becomesAbsent nextKeepalive <;> decide +kernel

/-- R118: a handover that is executing when the old home's port is declared absent. -/
theorem test_meets_AttachFromAnotherSectorHandsOver_in_an_absence :
    let s := ask (faint busy) (.sector 2) 0x10 [0, 0, 0, 0xA2, 4]
    laws s.eng ∧ s.serving (.sector 2) .attach (asked 0x10 [0, 0, 0, 0xA2, 4]) [] ∧ s.losesPort (.sector 0) ∧
    ¬ s.losesPort (.sector 2) ∧
    BoundaryMade s (s.onTimer .freeRunPeriodExpiry) (s.timer.lastBoundary + s.items.framePeriod) := by
  refine ⟨busy_laws, by decide +kernel, ?_, ?_, expiry_makes_a_boundary (by decide)⟩ <;>
    unfold State.losesPort becomesAbsent nextKeepalive <;> decide +kernel

theorem test_meets_SoftReset :
    (ask busy .site 0x32 []).serving .site .softReset (asked 0x32 []) [] ∧
    (((ask busy .site 0x32 []).onTimer .freeRunPeriodExpiry).port .site).rq = asked 0x32 [] :: [] := by
  decide +kernel

/-- The borders of the item table, in STANDBY and in RUNNING. -/
theorem test_meets_Configure :
    (ask site .site 0x33 [0x14, 0, 0, 0]).serving .site .configure (asked 0x33 [0x14, 0, 0, 0]) [] ∧
    parseConfigure [0x14, 0, 0, 0] = some (0x14, 0, 0) ∧ ConfigItem.ofCode? 0x14 = none ∧
    ConfigItem.ofCode? 0x02 = some .framePeriod ∧ ConfigItem.ofCode? 0x13 = some .eventRoute ∧
    (ConfigItem.framePeriod.inRange 0 2000 ∧ ConfigItem.framePeriod.inRange 0 20000 ∧
      ¬ ConfigItem.framePeriod.inRange 0 1984 ∧ ¬ ConfigItem.framePeriod.inRange 0 20016) ∧
    (ConfigItem.eventRoute.inRange 21 1 ∧ ¬ ConfigItem.eventRoute.inRange 22 1) ∧
    (ConfigItem.standbyOnly .framePeriod = true ∧ site.op ≠ .standby ∧ State.reset.op = .standby) ∧
    ConfigItem.adjacency.inRange (3 * 16 + 2) 1 := by
  refine ⟨by decide +kernel, by decide, by decide, by decide, by decide, ?_, ?_, by decide, ?_⟩
  · simp [ConfigItem.inRange]
  · simp [ConfigItem.inRange]
  · exact ⟨⟨3, 2, by decide, rfl⟩, by decide⟩

theorem test_meets_ReadConfigAnswersTheStoredValue :
    (ask site .site 0x34 [0x0A, 7]).serving .site .readConfig (asked 0x34 [0x0A, 7]) [] ∧
    parseReadConfig [0x0A, 7] = some (0x0A, 7) ∧ ConfigItem.ofCode? 0x0A = some .guardTable ∧
    readItem .guardTable 7 site.items = some 3 ∧ readItem .guardTable 8 site.items = none ∧
    ConfigItem.ofCode? 0x00 = none ∧ ConfigItem.standbyOnly .capacityTable = true ∧
    (writeItem .capacityTable 7 255 site.items).isSome = true ∧
    (writeItem .adjacency (0 * 16 + 3) 0 site.items).isSome = true := by decide +kernel

theorem test_meets_StatusReadTakesTheEvents :
    (ask site .site 0x3E []).serving .site .statusRead (asked 0x3E []) [] := by decide +kernel

theorem test_meets_PortStatusShowsThePorts :
    (ask site .site 0x3F []).serving .site .portStatus (asked 0x3F []) [] ∧
    (((ask site .site 0x3F []).onTimer .freeRunPeriodExpiry).port .site).rq = asked 0x3F [] :: [] := by
  decide +kernel

/-! ### The laws hold of a busy part -/

/-- A run of the laws' premises: the busy site with a boundary due and a command that takes it. -/
def atWork : State := (due busy).withPending [.boundaryProcessing]

theorem test_meets_StepKeepsPortsLawful :
    atWork.portsLawful ∧ step atWork = .next (after (step atWork)) := by
  refine ⟨⟨?_, by decide, by decide⟩, next_after (by decide +kernel)⟩
  intro p
  have h : ∀ q ∈ allPorts, (atWork.port q).rq.length ≤ 8 ∧ (atWork.port q).oq.length + (atWork.port q).owed ≤ 16 ∧
      (atWork.port q).owed = (atWork.port q).rq.length ∧
      ((atWork.port q).health = .absent → (atWork.port q).oq = [] ∧ (atWork.port q).rq = []) := by decide +kernel
  apply h p
  cases p with
  | site => decide
  | sector n => revert n; decide

theorem test_meets_StepKeepsStandbyLawful : atWork.standbyLawful ∧ State.reset.standbyLawful := by
  constructor <;> unfold State.standbyLawful <;> decide +kernel

theorem test_meets_StepKeepsLoadLawful :
    atWork.eng.lawful ∧ atWork.eng.linksLawful ∧ step atWork = .next (after (step atWork)) :=
  ⟨busy_laws.1, busy_laws.2, next_after (by decide +kernel)⟩

/-- The second law of the load, where the load is above the ceiling. -/
theorem test_meets_StepKeepsLoadLawful_above_the_ceiling :
    laws lifted.eng ∧ lifted.eng.shedLawful ∧ lifted.eng.ceiling < lifted.eng.load :=
  ⟨lifted_laws, .inr (by decide +kernel), by decide +kernel⟩

theorem test_meets_StepKeepsTagsLawful : site.eng.tablesWf ∧ site.eng.tagsLawful := by
  refine ⟨by unfold Engine.tablesWf; decide +kernel, ?_⟩
  intro tag h
  have hget : ∀ (k : Nat), Table.get? site.eng.tagMap k =
      if 0xA0 = k then some 0 else if 0xA1 = k then some 1 else if 0xA2 = k then some 2 else none := fun k => rfl
  have hsub : ∀ (k : Nat), Table.get? site.eng.subs k =
      if 0 = k then some (member 0xA0 1 2) else if 1 = k then some (member 0xA1 1 6)
      else if 2 = k then some (member 0xA2 0 1) else none := fun k => rfl
  rw [hget, hsub]
  constructor
  · intro hh
    split at hh
    · cases hh; subst tag; exact ⟨_, rfl, by decide, by decide⟩
    · split at hh
      · cases hh; subst tag; exact ⟨_, rfl, by decide, by decide⟩
      · split at hh
        · cases hh; subst tag; exact ⟨_, rfl, by decide, by decide⟩
        · cases hh
  · rintro ⟨x, hx, _, ht⟩
    split at hx
    · cases hx; subst h; subst ht; rfl
    · split at hx
      · cases hx; subst h; subst ht; rfl
      · split at hx
        · cases hx; subst h; subst ht; rfl
        · cases hx

theorem test_meets_StepKeepsGridLawful : busy.eng.gridLawful := by
  have hall : ∀ x ∈ busy.eng.grants, x.2.state.counted = true → ∀ d ∈ [Direction.dl, .ul], ∀ c : Carrier,
      ∀ slot, slot < 16 → ∀ n : Sector, (d = x.2.dir ∧ c = x.2.carrier ∧ x.2.first ≤ slot ∧
      slot < x.2.first + x.2.k + x.2.g ∧ x.2.excl.getLsbD n.val = true) →
      busy.eng.holder d c slot n = some ⟨x.1, x.2.roleAt slot⟩ ∧ busy.eng.isBlocked d c slot = false := by
    decide +kernel
  have hheld : ∀ d ∈ [Direction.dl, .ul], ∀ c : Carrier, ∀ slot, slot < 16 → ∀ n : Sector,
      (busy.eng.holder d c slot n).all (fun h => (Table.get? busy.eng.grants h.grant).any (fun g =>
        decide (d = g.dir ∧ c = g.carrier ∧ g.first ≤ slot ∧ slot < g.first + g.k + g.g ∧
          g.excl.getLsbD n.val = true ∧ h.role = g.roleAt slot))) = true := by decide +kernel
  have hspan : ∀ x ∈ busy.eng.grants, 1 ≤ x.2.first ∧ x.2.first + x.2.k + x.2.g ≤ 16 := by decide +kernel
  have hdir : ∀ d : Direction, d ∈ [Direction.dl, .ul] := by intro d; cases d <;> decide
  refine ⟨hspan, ?_, ?_⟩
  · intro x hx hc d c slot n ⟨h1, h2, h3, h4, h5⟩
    exact hall x hx hc d (hdir d) c slot (by have := hspan x hx; omega) n ⟨h1, h2, h3, h4, h5⟩
  · intro d c slot n h hs hh
    have := hheld d (hdir d) c slot (by omega) n
    rw [hh] at this
    simp only [Option.all_some, Option.any_eq_true, decide_eq_true_eq] at this
    obtain ⟨g, hg, h1, h2, h3, h4, h5, h6⟩ := this
    exact ⟨g, hg, ⟨h1, h2, h3, h4, h5⟩, h6⟩

/-- Each clause of EachTableHasItsWriter on a command that changes its table. -/
theorem test_meets_EachTableHasItsWriter :
    (∀ x ∈ [((.grantRequest ⟨.sector 1, []⟩ : Instr), ask site (.sector 1) 0x13 [1, 2, 1, 0, 30, 0xFF]),
        (.start ⟨.site, []⟩ 0, configured 1 1 499), (.blockTiles ⟨.site, []⟩, ask site .site 0x35 [0, 0, 1, 1, 1, 0]),
        (.setCeiling ⟨.site, []⟩, ask site .site 0x36 [0, 1]), (.classWrite ⟨.site, []⟩, ask site .site 0x3D [9, 2, 1]),
        (.templateWrite ⟨.site, []⟩, ask site .site 0x3B [9, 1, 0, 1, 8, 3, 2, 1, 3]),
        (.configure ⟨.site, []⟩, ask site .site 0x33 [0x10, 0, 0, 9])],
      exec x.1 x.2 = .next (after (exec x.1 x.2))) ∧
    (after (exec (.grantRequest ⟨.sector 1, []⟩) (ask site (.sector 1) 0x13 [1, 2, 1, 0, 30, 0xFF]))).eng.cells ≠ [] ∧
    (after (exec (.configure ⟨.site, []⟩) (ask site .site 0x33 [0x10, 0, 0, 9]))).items.qualityFloor = 9 := by
  refine ⟨?_, by decide +kernel, by decide +kernel⟩
  intro x hx
  refine next_after ?_
  revert x
  decide +kernel

end Sys2Proof.Tests
end

/-! The Placement Search (R47 to R56): its candidates and their order, what free fit and preempt fit say of the grid's
cells, the choice among the qualifying candidates, and the two statements on the search. -/

namespace Sys2Proof.Machine

/-! ### Slots, sectors and carriers -/

theorem mem_slotsOf {first len slot : Nat} : slot ∈ slotsOf first len ↔ first ≤ slot ∧ slot < first + len := by
  rw [slotsOf, ← List.range'_eq_map_range, List.mem_range'_1]

theorem slotsOf_ascending (first len : Nat) : (slotsOf first len).Pairwise (· < ·) := by
  rw [slotsOf, ← List.range'_eq_map_range]
  exact List.pairwise_lt_range'

theorem mem_sectorsOf {x : SectorSet} {n : Sector} : n ∈ sectorsOf x ↔ x.getLsbD n.val = true := by
  have hall : ∀ n : Sector, n ∈ [(0 : Sector), 1, 2, 3] := by decide
  simp only [sectorsOf, List.mem_filter, hall, true_and]

theorem mem_carriersOf {x : CarrierSet} {c : Carrier} : c ∈ carriersOf x ↔ x.getLsbD c.val = true := by
  have hall : ∀ c : Carrier, c ∈ [(0 : Carrier), 1, 2, 3, 4, 5, 6, 7] := by decide
  simp only [carriersOf, List.mem_filter, hall, true_and]

theorem carriersOf_ascending (x : CarrierSet) : (carriersOf x).Pairwise (· < ·) :=
  List.Pairwise.filter _ (by decide)

/-! ### The candidates in search order (R48) -/

/-- Search order (R48). -/
def Spot.Before (a b : Spot) : Prop := a.carrier < b.carrier ∨ (a.carrier = b.carrier ∧ a.first < b.first)

theorem Query.mem_spots {q : Query} {s : Spot} :
    s ∈ q.spots ↔ q.carriers.getLsbD s.carrier.val = true ∧ 1 ≤ s.first ∧ s.first + q.k + q.g ≤ 16 := by
  obtain ⟨c, f⟩ := s
  have hrange : ∀ f, (1 ≤ f ∧ f < 1 + (16 - q.k - q.g)) ↔ (1 ≤ f ∧ f + q.k + q.g ≤ 16) := by omega
  simp only [Query.spots, List.mem_flatMap, List.mem_map, mem_carriersOf, mem_slotsOf, hrange, Spot.mk.injEq]
  constructor
  · rintro ⟨_, hc, _, hf, rfl, rfl⟩
    exact ⟨hc, hf⟩
  · rintro ⟨hc, hf⟩
    exact ⟨c, hc, f, hf, rfl, rfl⟩

theorem Query.spots_in_search_order (q : Query) : q.spots.Pairwise Spot.Before := by
  refine List.pairwise_flatMap.mpr ⟨fun c _ => ?_, ?_⟩
  · exact List.pairwise_map.mpr ((slotsOf_ascending _ _).imp fun hlt => .inr ⟨rfl, hlt⟩)
  · refine (carriersOf_ascending _).imp fun {c d} hlt a ha b hb => .inl ?_
    obtain ⟨_, _, rfl⟩ := List.mem_map.mp ha
    obtain ⟨_, _, rfl⟩ := List.mem_map.mp hb
    exact hlt

/-! ### Blocked tiles and holders (R49, R50, R54) -/

/-- No tile of the candidate's span is blocked (R49). -/
def Query.Unblocked (q : Query) (e : Engine) (s : Spot) : Prop :=
  ∀ slot, s.first ≤ slot → slot < s.first + q.k + q.g → e.isBlocked q.dir s.carrier slot = false

/-- Grant i holds a cell of the candidate's footprint (R48). -/
def Query.Holds (q : Query) (e : Engine) (s : Spot) (i : Nat) : Prop :=
  ∃ slot n h, s.first ≤ slot ∧ slot < s.first + q.k + q.g ∧ q.excl.getLsbD n.val = true ∧
    e.holder q.dir s.carrier slot n = some h ∧ h.grant = i

theorem Query.open_iff {q : Query} {e : Engine} {s : Spot} : q.open e s = true ↔ q.Unblocked e s := by
  simp only [Query.open, Query.Unblocked, List.all_eq_true, mem_slotsOf, Bool.not_eq_true', Nat.add_assoc, and_imp]

theorem mem_footprint {first len slot : Nat} {x : SectorSet} {n : Sector} :
    (slot, n) ∈ footprint first len x ↔ first ≤ slot ∧ slot < first + len ∧ x.getLsbD n.val = true := by
  simp only [footprint, List.mem_flatMap, List.mem_map, mem_slotsOf, mem_sectorsOf, Prod.mk.injEq]
  constructor
  · rintro ⟨_, ⟨hge, hlt⟩, _, hx, rfl, rfl⟩
    exact ⟨hge, hlt, hx⟩
  · rintro ⟨hge, hlt, hx⟩
    exact ⟨slot, ⟨hge, hlt⟩, n, hx, rfl, rfl⟩

theorem Query.mem_holders {q : Query} {e : Engine} {s : Spot} {i : Nat} :
    i ∈ q.holders e s ↔ q.Holds e s i := by
  simp only [Query.holders, Query.Holds, List.mem_filterMap, Prod.exists, mem_footprint, Option.map_eq_some_iff,
    Nat.add_assoc]
  constructor
  · rintro ⟨slot, n, ⟨hge, hlt, hx⟩, h, hh, rfl⟩
    exact ⟨slot, n, h, hge, hlt, hx, hh, rfl⟩
  · rintro ⟨slot, n, h, hge, hlt, hx, hh, rfl⟩
    exact ⟨slot, n, ⟨hge, hlt, hx⟩, h, hh, rfl⟩

theorem Engine.withdrawnGrant_iff {e : Engine} {i : Nat} :
    e.withdrawnGrant i = true ↔ ∃ g, Table.get? e.grants i = some g ∧ g.state.isWithdrawn = true := by
  unfold Engine.withdrawnGrant
  cases Table.get? e.grants i <;> simp

/-! ### Who may preempt whom (R52, R53) -/

theorem mayPreempt_iff (p : Priority) (on : Bool) (h : Priority) :
    mayPreempt p on h = true ↔
      (p = .emergency ∧ h ≠ .emergency) ∨ (p = .priority ∧ on = true ∧ h = .background) := by
  cases p <;> cases h <;> simp [mayPreempt]

theorem Query.mayPreemptAny_iff {q : Query} :
    q.mayPreemptAny = true ↔ q.prio = .emergency ∨ (q.prio = .priority ∧ q.preemptOn = true) := by
  simp [Query.mayPreemptAny, mayPreempt_iff]

theorem Query.preemptible_iff {q : Query} {e : Engine} {i : Nat} :
    q.preemptible e i = true ↔
      i ∉ q.prot ∧ ∃ g, Table.get? e.grants i = some g ∧ mayPreempt q.prio q.preemptOn g.prio = true := by
  unfold Query.preemptible
  cases Table.get? e.grants i <;> simp [and_comm]

/-! ### Free fits, qualifying candidates and victims (R50, R54) -/

theorem Query.freeFit_iff {q : Query} {e : Engine} {s : Spot} :
    q.freeFit e s = true ↔ q.Unblocked e s ∧ ∀ i, q.Holds e s i → e.withdrawnGrant i = true := by
  simp only [Query.freeFit, Bool.and_eq_true, Query.open_iff, List.all_eq_true, Query.mem_holders]

/-- Free fit cell by cell, as R50 words it. -/
theorem Query.freeFit_iff_cells {q : Query} {e : Engine} {s : Spot} :
    q.freeFit e s = true ↔ q.Unblocked e s ∧
      ∀ slot n h, s.first ≤ slot → slot < s.first + q.k + q.g → q.excl.getLsbD n.val = true →
        e.holder q.dir s.carrier slot n = some h → e.withdrawnGrant h.grant = true := by
  refine Query.freeFit_iff.trans (and_congr_right fun _ => ⟨?_, ?_⟩)
  · intro hw slot n h hge hlt hx hh
    exact hw _ ⟨slot, n, h, hge, hlt, hx, hh, rfl⟩
  · rintro hw i ⟨slot, n, h, hge, hlt, hx, hh, rfl⟩
    exact hw slot n h hge hlt hx hh

theorem Query.qualifies_iff {q : Query} {e : Engine} {s : Spot} :
    q.qualifies e s = true ↔ q.Unblocked e s ∧
      ∀ i, q.Holds e s i → e.withdrawnGrant i = true ∨ q.preemptible e i = true := by
  simp only [Query.qualifies, Bool.and_eq_true, Query.open_iff, List.all_eq_true, Query.mem_holders, Bool.or_eq_true]

theorem Query.mem_victims {q : Query} {e : Engine} {s : Spot} {i : Nat} :
    i ∈ q.victims e s ↔ i ∈ e.admission ∧ q.Holds e s i ∧ ¬ e.withdrawnGrant i = true := by
  simp only [Query.victims, List.mem_filter, Bool.and_eq_true, List.contains_iff_mem, Query.mem_holders,
    Bool.not_eq_true', Bool.not_eq_true]

/-- A victim of a qualifying candidate is preemptible, since it is a holder that is not WITHDRAWN. -/
theorem Query.victim_preemptible {q : Query} {e : Engine} {s : Spot} {i : Nat} (hq : q.qualifies e s = true)
    (hi : i ∈ q.victims e s) : e.withdrawnGrant i = false ∧ q.preemptible e i = true := by
  obtain ⟨-, hholds, hnot⟩ := Query.mem_victims.mp hi
  exact ⟨by simpa using hnot, ((Query.qualifies_iff.mp hq).2 i hholds).resolve_left hnot⟩

/-! ### The choice among the qualifying candidates (R55) -/

theorem fewer_cases {best : Option (Spot × List Nat)} {x y : Spot × List Nat} (h : fewer best y = some x) :
    best = some x ∨ x = y := by
  cases best with
  | none => exact .inr (Option.some.inj h).symm
  | some b =>
    rw [fewer] at h
    split at h
    · exact .inr (Option.some.inj h).symm
    · exact .inl h

theorem foldl_fewer_mem {l : List (Spot × List Nat)} {best : Option (Spot × List Nat)} {x : Spot × List Nat}
    (h : l.foldl fewer best = some x) : best = some x ∨ x ∈ l := by
  induction l generalizing best with
  | nil => exact .inl h
  | cons y l ih =>
    rcases ih h with hstep | hmem
    · rcases fewer_cases hstep with hbest | rfl
      · exact .inl hbest
      · exact .inr List.mem_cons_self
    · exact .inr (List.mem_cons_of_mem y hmem)

theorem foldl_fewer_keeps {l : List (Spot × List Nat)} {x : Spot × List Nat}
    (h : ∀ y ∈ l, x.2.length ≤ y.2.length) : l.foldl fewer (some x) = some x := by
  induction l with
  | nil => rfl
  | cons y l ih =>
    have hstep : fewer (some x) y = some x := if_neg (Nat.not_lt.mpr (h y List.mem_cons_self))
    rw [List.foldl_cons, hstep]
    exact ih fun z hz => h z (List.mem_cons_of_mem y hz)

/-- The entry that beats all before it and yields to none after it is the one chosen. -/
theorem foldl_fewer_eq_first_least {a b : List (Spot × List Nat)} {x : Spot × List Nat}
    (ha : ∀ y ∈ a, x.2.length < y.2.length) (hb : ∀ y ∈ b, x.2.length ≤ y.2.length) :
    (a ++ x :: b).foldl fewer none = some x := by
  have hstep : fewer (a.foldl fewer none) x = some x := by
    cases hbest : a.foldl fewer none with
    | none => rfl
    | some y => exact if_pos (ha y ((foldl_fewer_mem hbest).resolve_left (by simp)))
  rw [List.foldl_append, List.foldl_cons, hstep]
  exact foldl_fewer_keeps hb

theorem Query.preemptFit_spec {q : Query} {e : Engine} {s : Spot} {vs : List Nat}
    (h : q.preemptFit e = some (s, vs)) : s ∈ q.spots ∧ q.qualifies e s = true ∧ vs = q.victims e s := by
  have hmem := (foldl_fewer_mem h).resolve_left (by simp)
  obtain ⟨s', hs', heq⟩ := List.mem_map.mp hmem
  obtain ⟨rfl, rfl⟩ := Prod.mk.inj heq
  obtain ⟨hspot, hq⟩ := List.mem_filter.mp hs'
  exact ⟨hspot, hq, rfl⟩

theorem Query.preemptFit_eq_none {q : Query} {e : Engine} (h : ∀ s ∈ q.spots, q.qualifies e s = false) :
    q.preemptFit e = none := by
  cases hfit : q.preemptFit e with
  | none => rfl
  | some x =>
    obtain ⟨hspot, hq, -⟩ := Query.preemptFit_spec hfit
    simp [h _ hspot] at hq

theorem Query.preemptFit_eq_first_least {q : Query} {e : Engine} {a b : List Spot} {s : Spot}
    (hsplit : q.spots = a ++ s :: b) (hq : q.qualifies e s = true)
    (ha : ∀ x ∈ a, q.qualifies e x = true → (q.victims e s).length < (q.victims e x).length)
    (hb : ∀ x ∈ b, q.qualifies e x = true → (q.victims e s).length ≤ (q.victims e x).length) :
    q.preemptFit e = some (s, q.victims e s) := by
  rw [Query.preemptFit, hsplit, List.filter_append, List.filter_cons_of_pos hq, List.map_append, List.map_cons]
  refine foldl_fewer_eq_first_least ?_ ?_
  · intro y hy
    obtain ⟨x, hx, rfl⟩ := List.mem_map.mp hy
    exact ha x (List.mem_filter.mp hx).1 (List.mem_filter.mp hx).2
  · intro y hy
    obtain ⟨x, hx, rfl⟩ := List.mem_map.mp hy
    exact hb x (List.mem_filter.mp hx).1 (List.mem_filter.mp hx).2

/-! ### The search (R51, R54, R56) -/

/-- In a list that stands in an order, a member that passes a test no earlier element passes is the one found. -/
theorem find?_eq_some_of_ordered {α : Type} {r : α → α → Prop} {p : α → Bool} {l : List α} {x : α}
    (hord : l.Pairwise r) (hx : x ∈ l) (hpx : p x = true) (hfirst : ∀ y ∈ l, r y x → ¬ p y = true) :
    l.find? p = some x := by
  obtain ⟨a, b, rfl⟩ := List.append_of_mem hx
  have hbefore := (List.pairwise_append.mp hord).2.2
  refine List.find?_eq_some_iff_append.mpr ⟨hpx, a, b, rfl, fun y hy => ?_⟩
  have := hfirst y (List.mem_append_left _ hy) (hbefore y hy x List.mem_cons_self)
  simpa using this

theorem Query.search_eq_first_freeFit {q : Query} {e : Engine} {s : Spot} (hs : s ∈ q.spots)
    (hfit : q.freeFit e s = true) (hfirst : ∀ x ∈ q.spots, x.Before s → ¬ q.freeFit e x = true) :
    q.search e = some (s, []) := by
  rw [Query.search, find?_eq_some_of_ordered q.spots_in_search_order hs hfit hfirst]

theorem Query.search_of_no_freeFit {q : Query} {e : Engine} (h : ∀ s ∈ q.spots, q.freeFit e s = false) :
    q.search e = if q.mayPreemptAny then q.preemptFit e else none := by
  rw [Query.search, List.find?_eq_none.mpr fun s hs => by simp [h s hs]]

/-- All that the search can answer: a free fit without victims, or a qualifying candidate with its victims. -/
theorem Query.search_cases {q : Query} {e : Engine} {s : Spot} {vs : List Nat} (h : q.search e = some (s, vs)) :
    s ∈ q.spots ∧ ((q.freeFit e s = true ∧ vs = []) ∨ (q.qualifies e s = true ∧ vs = q.victims e s)) := by
  unfold Query.search at h
  split at h
  next s' hfind =>
    obtain ⟨rfl, rfl⟩ := Prod.mk.inj (Option.some.inj h)
    exact ⟨List.mem_of_find?_eq_some hfind, .inl ⟨List.find?_some hfind, rfl⟩⟩
  next =>
    split at h
    · obtain ⟨hspot, hqual⟩ := Query.preemptFit_spec h
      exact ⟨hspot, .inr hqual⟩
    · cases h

theorem Query.search_unblocked {q : Query} {e : Engine} {s : Spot} {vs : List Nat}
    (h : q.search e = some (s, vs)) : q.Unblocked e s := by
  rcases (Query.search_cases h).2 with ⟨hfit, -⟩ | ⟨hqual, -⟩
  · exact (Query.freeFit_iff.mp hfit).1
  · exact (Query.qualifies_iff.mp hqual).1

theorem Query.search_victim {q : Query} {e : Engine} {s : Spot} {vs : List Nat} {v : Nat}
    (h : q.search e = some (s, vs)) (hv : v ∈ vs) :
    v ∉ q.prot ∧ ∃ g, Table.get? e.grants v = some g ∧ g.state.isWithdrawn = false ∧
      mayPreempt q.prio q.preemptOn g.prio = true := by
  rcases (Query.search_cases h).2 with ⟨-, rfl⟩ | ⟨hqual, rfl⟩
  · cases hv
  · obtain ⟨hnot, hpre⟩ := Query.victim_preemptible hqual hv
    obtain ⟨hprot, g, hg, hmay⟩ := Query.preemptible_iff.mp hpre
    refine ⟨hprot, g, hg, ?_, hmay⟩
    simpa [Engine.withdrawnGrant, hg] using hnot

/-! ### The statements on the search -/

/-- Settles O11: the search scans the candidates in search order, so it stops at the first free fit. -/
theorem searchTakesFirstFreeFit : Obligations.SearchTakesFirstFreeFit := by
  intro q e candidate unblocked fits
  have hfits : ∀ s : Spot, fits s.carrier s.first ↔ s ∈ q.spots ∧ q.freeFit e s = true :=
    fun s => and_congr Query.mem_spots.symm Query.freeFit_iff_cells.symm
  refine ⟨fun s vs h => ⟨Query.mem_spots.mp (Query.search_cases h).1, Query.search_unblocked h⟩, ?_⟩
  intro c f hf hfirst
  obtain ⟨hspot, hfree⟩ := (hfits ⟨c, f⟩).mp hf
  exact Query.search_eq_first_freeFit hspot hfree fun x hx hbefore hfree' =>
    hfirst x.carrier x.first hbefore ((hfits x).mpr ⟨hx, hfree'⟩)

/-- Settles O12: the second pass folds over the qualifying candidates in search order and changes its choice only for
strictly fewer victims. -/
theorem preemptFitHasFewestVictims : Obligations.PreemptFitHasFewestVictims := by
  refine ⟨mayPreempt_iff, ?terms, ?choice, fun q e s vs h v hv => Query.search_victim h hv⟩
  case terms =>
    intro q e unblocked holds withdrawn victim
    have hwithdrawn : ∀ i, e.withdrawnGrant i = true ↔ withdrawn i := fun _ => Engine.withdrawnGrant_iff
    have hvictim : ∀ i, q.preemptible e i = true ↔ victim i := fun _ => Query.preemptible_iff
    refine ⟨fun _ => Query.mem_spots, q.spots_in_search_order, fun s => ?_, fun s => ?_,
      fun s => ⟨List.filter_sublist, fun i => ?_⟩⟩
    · simp only [← hwithdrawn]
      exact Query.freeFit_iff
    · simp only [← hwithdrawn, ← hvictim]
      exact Query.qualifies_iff
    · simp only [← hwithdrawn]
      exact Query.mem_victims
  case choice =>
    intro q e hnone
    rw [Query.search_of_no_freeFit hnone]
    refine ⟨fun hprio => if_neg ?_, fun hprio => ?_⟩
    · rw [Query.mayPreemptAny_iff]
      rcases hprio with hp | hp | ⟨hp, hoff⟩
      · simp [hp]
      · simp [hp]
      · simp [hp, hoff]
    · rw [if_pos (Query.mayPreemptAny_iff.mpr hprio)]
      exact ⟨Query.preemptFit_eq_none, fun a s b => Query.preemptFit_eq_first_least⟩

end Sys2Proof.Machine
